-- ==== Sys2Proof/Word.lean ====
section
/-! DEFINITION. The word types of the core, the operand of an instruction by addressing mode, and one bus access.

The widths are those of `00_scope.md` R6: 8-bit data, 16-bit addresses. -/

namespace Sys2Proof

/-- An 8-bit value: A, X, Y, SP, a packed P, one byte of the bus (R6, R8). -/
abbrev Byte := BitVec 8

/-- A 16-bit value: PC, a bus address (R6, R8). -/
abbrev Addr := BitVec 16

/-- The operand of an instruction as its bytes give it, one constructor per addressing mode of `20_memory.md` R64,
holding the operand bytes of R91: `nn` an immediate, `zz` a zero-page address, `rr` a branch offset, and a 16-bit
address assembled from `ll`, `hh` (R92). -/
inductive Operand where
  | imp
  | acc
  | imm (nn : Byte)
  | zp (zz : Byte)
  | zpx (zz : Byte)
  | zpy (zz : Byte)
  | abs (hhll : Addr)
  | abx (hhll : Addr)
  | aby (hhll : Addr)
  | ind (hhll : Addr)
  | izx (zz : Byte)
  | izy (zz : Byte)
  | rel (rr : Byte)
  deriving DecidableEq, Repr

/-- One event of the bus's history: a byte access of the core (R9, R51), or, between two steps, a change the bus's owner
makes (R338): a byte it stores at an address, RAM or device register, or a change inside a device, named by a number. -/
inductive BusEvent where
  | read (addr : Addr) (value : Byte)
  | write (addr : Addr) (value : Byte)
  | ownerStore (addr : Addr) (value : Byte)
  | deviceChange (what : Nat)
  deriving DecidableEq, Repr

end Sys2Proof
end

