-- ==== Sys2Proof/Config.lean ====
section
/-! DEFINITION. What the spec leaves OPEN (`00_scope.md` R6): the cost of an undocumented opcode, the answers of the
bus where it is not plain memory, and the power-on draw. -/

namespace Sys2Proof

/-- `UNDOC_CYCLES` (R6, R250), a natural number the spec leaves open. A free value: it has no body, so a statement
about it holds for every value. -/
opaque Config.undocCycles : Nat

/-- The byte the bus answers to a read of an address that lies in one of the bus's windows, given the bus's history before
it, newest first: every access of the core and every change the owner made between steps (R51, R52, R80, R338). A free
value: any byte, and each access or change may alter what later reads answer, because it lengthens the history. -/
opaque Config.busAnswer : List BusEvent → Addr → Byte

/-- The draws of a launch (R6, R322): `POWERON_A`, `POWERON_X`, `POWERON_Y`, `POWERON_SP`, the six booleans of
`POWERON_FLAGS` and `CYCLES_AT_POWER_ON`. -/
structure Config.PowerOn where
  a : Byte
  x : Byte
  y : Byte
  sp : Byte
  c : Bool
  z : Bool
  d : Bool
  b : Bool
  v : Bool
  n : Bool
  cycles : Nat
  deriving DecidableEq, Repr

/-- The one draw the spec writes out: `POWERON_SP` 0x00, every flag 0 but B, `CYCLES_AT_POWER_ON` 0 (R322), and
A = X = Y = 0 (`95_test_vectors.md` S4). DESIGN CHOICE, log entries 6 and 7; unsafe where a claim leans on it. -/
def Config.testLogDraw : Config.PowerOn :=
  { a := 0, x := 0, y := 0, sp := 0,
    c := false, z := false, d := false, b := true, v := false, n := false, cycles := 0 }

end Sys2Proof
end

