-- ==== Sys2Proof/Machine/Bits.lean ====
section
/-! DEFINITION. Bit fields, byte order and extension (`00_scope.md` R7, R8). -/

namespace Sys2Proof

/-- `hh:ll`, the 16-bit value `hh * 256 + ll` (R7). -/
def ofBytes (hh ll : Byte) : Addr := hh ++ ll

/-- `v[7:0]` (R7). -/
def loByte (v : Addr) : Byte := v.extractLsb' 0 8

/-- `v[15:8]`, which for an address is its page (R7, glossary of `00_scope.md`). -/
def hiByte (v : Addr) : Byte := v.extractLsb' 8 8

/-- `zext_16(v)` (R8). -/
def zext16 (v : Byte) : Addr := v.setWidth 16

/-- `sext_16(v)`: bit 7 copied into bits 15..8 (R8). -/
def sext16 (v : Byte) : Addr := v.signExtend 16

/-- The two addresses lie in different pages (R64, R200). -/
def pageDiffers (a b : Addr) : Bool := hiByte a != hiByte b

end Sys2Proof
end

