-- ==== Sys2Proof/Syntax.lean ====
section
/-! DEFINITION. The instructions: one constructor per mnemonic of `spec/opcode_table.json`, whose argument is the
operand form. A row of the table is a constructor together with a form: LDA has eight rows and eight well-formed
operands. An instruction with one form takes its operand bytes directly, an implied one takes nothing. -/

namespace Sys2Proof

/-- An instruction of the core (`30_encoding.md` R93, R95). -/
inductive Instr where
  -- 41_load_store.md
  | lda (r : Operand)
  | ldx (r : Operand)
  | ldy (r : Operand)
  | sta (r : Operand)
  | stx (r : Operand)
  | sty (r : Operand)
  -- 42_transfer.md
  | tax
  | tay
  | txa
  | tya
  | tsx
  | txs
  -- 43_inc_dec.md
  | inc (r : Operand)
  | inx
  | iny
  | dec (r : Operand)
  | dex
  | dey
  -- 44_arithmetic_compare.md
  | adc (r : Operand)
  | sbc (r : Operand)
  | cmp (r : Operand)
  | cpx (r : Operand)
  | cpy (r : Operand)
  -- 45_logic.md
  | and (r : Operand)
  | ora (r : Operand)
  | eor (r : Operand)
  | bit (r : Operand)
  -- 46_shift_rotate.md
  | asl (r : Operand)
  | lsr (r : Operand)
  | rol (r : Operand)
  | ror (r : Operand)
  -- 47_branch.md
  | bcc (rr : Byte)
  | bcs (rr : Byte)
  | beq (rr : Byte)
  | bne (rr : Byte)
  | bmi (rr : Byte)
  | bpl (rr : Byte)
  | bvc (rr : Byte)
  | bvs (rr : Byte)
  -- 48_jump_stack.md
  | jmp (r : Operand)
  | jsr (hhll : Addr)
  | rts
  | pha
  | pla
  | php
  | plp
  -- 49_flags_system.md
  | clc
  | sec
  | cld
  | sed
  | cli
  | sei
  | clv
  | brk
  | rti
  | nop
  | undoc (opc : Byte)
  deriving DecidableEq, Repr

end Sys2Proof
end

