-- ==== Sys2Proof/WellFormed.lean ====
section
/-! DEFINITION. Which operand forms an instruction has, from the "Operands:" line of its rule, and which bytes are
undocumented opcodes (`30_encoding.md` R95). A term of `Instr` that is not well formed is no instruction: the decoder
never gives one. -/

namespace Sys2Proof

/-- IMM, ZP, ZPX, ABS, ABX, ABY, IZX, IZY: LDA, ADC, SBC, CMP, AND, ORA, EOR (R121, R161, R162, R165, R181 to R183). -/
def Operand.isAluForm : Operand → Bool
  | .imm _ | .zp _ | .zpx _ | .abs _ | .abx _ | .aby _ | .izx _ | .izy _ => true
  | .imp | .acc | .zpy _ | .ind _ | .rel _ => false

/-- IMM, ZP, ZPY, ABS, ABY: LDX (R122). -/
def Operand.isLdxForm : Operand → Bool
  | .imm _ | .zp _ | .zpy _ | .abs _ | .aby _ => true
  | .imp | .acc | .zpx _ | .abx _ | .ind _ | .izx _ | .izy _ | .rel _ => false

/-- IMM, ZP, ZPX, ABS, ABX: LDY (R123). -/
def Operand.isLdyForm : Operand → Bool
  | .imm _ | .zp _ | .zpx _ | .abs _ | .abx _ => true
  | .imp | .acc | .zpy _ | .aby _ | .ind _ | .izx _ | .izy _ | .rel _ => false

/-- ZP, ZPX, ABS, ABX, ABY, IZX, IZY: STA (R124). -/
def Operand.isStaForm : Operand → Bool
  | .zp _ | .zpx _ | .abs _ | .abx _ | .aby _ | .izx _ | .izy _ => true
  | .imp | .acc | .imm _ | .zpy _ | .ind _ | .rel _ => false

/-- ZP, ZPY, ABS: STX (R125). -/
def Operand.isStxForm : Operand → Bool
  | .zp _ | .zpy _ | .abs _ => true
  | .imp | .acc | .imm _ | .zpx _ | .abx _ | .aby _ | .ind _ | .izx _ | .izy _ | .rel _ => false

/-- ZP, ZPX, ABS: STY (R126). -/
def Operand.isStyForm : Operand → Bool
  | .zp _ | .zpx _ | .abs _ => true
  | .imp | .acc | .imm _ | .zpy _ | .abx _ | .aby _ | .ind _ | .izx _ | .izy _ | .rel _ => false

/-- ZP, ZPX, ABS, ABX: INC, DEC (R151, R154). -/
def Operand.isModifyForm : Operand → Bool
  | .zp _ | .zpx _ | .abs _ | .abx _ => true
  | .imp | .acc | .imm _ | .zpy _ | .aby _ | .ind _ | .izx _ | .izy _ | .rel _ => false

/-- ACC, ZP, ZPX, ABS, ABX: ASL, LSR, ROL, ROR (R191 to R194). -/
def Operand.isShiftForm : Operand → Bool
  | .acc | .zp _ | .zpx _ | .abs _ | .abx _ => true
  | .imp | .imm _ | .zpy _ | .aby _ | .ind _ | .izx _ | .izy _ | .rel _ => false

/-- IMM, ZP, ABS: CPX, CPY (R166, R167). -/
def Operand.isCompareIndexForm : Operand → Bool
  | .imm _ | .zp _ | .abs _ => true
  | .imp | .acc | .zpx _ | .zpy _ | .abx _ | .aby _ | .ind _ | .izx _ | .izy _ | .rel _ => false

/-- ZP, ABS: BIT (R184). -/
def Operand.isBitForm : Operand → Bool
  | .zp _ | .abs _ => true
  | .imp | .acc | .imm _ | .zpx _ | .zpy _ | .abx _ | .aby _ | .ind _ | .izx _ | .izy _ | .rel _ => false

/-- ABS, IND: JMP (R220). -/
def Operand.isJumpForm : Operand → Bool
  | .abs _ | .ind _ => true
  | .imp | .acc | .imm _ | .zp _ | .zpx _ | .zpy _ | .abx _ | .aby _ | .izx _ | .izy _ | .rel _ => false

/-- The 105 opcode values with no documented behavior, in the order R95 lists them. -/
def undocumentedOpcodes : List Byte :=
  [0x02, 0x03, 0x04, 0x07, 0x0B, 0x0C, 0x0F, 0x12, 0x13, 0x14, 0x17, 0x1A, 0x1B, 0x1C, 0x1F] ++
  [0x22, 0x23, 0x27, 0x2B, 0x2F, 0x32, 0x33, 0x34, 0x37, 0x3A, 0x3B, 0x3C, 0x3F, 0x42, 0x43] ++
  [0x44, 0x47, 0x4B, 0x4F, 0x52, 0x53, 0x54, 0x57, 0x5A, 0x5B, 0x5C, 0x5F, 0x62, 0x63, 0x64] ++
  [0x67, 0x6B, 0x6F, 0x72, 0x73, 0x74, 0x77, 0x7A, 0x7B, 0x7C, 0x7F, 0x80, 0x82, 0x83, 0x87] ++
  [0x89, 0x8B, 0x8F, 0x92, 0x93, 0x97, 0x9B, 0x9C, 0x9E, 0x9F, 0xA3, 0xA7, 0xAB, 0xAF, 0xB2] ++
  [0xB3, 0xB7, 0xBB, 0xBF, 0xC2, 0xC3, 0xC7, 0xCB, 0xCF, 0xD2, 0xD3, 0xD4, 0xD7, 0xDA, 0xDB] ++
  [0xDC, 0xDF, 0xE2, 0xE3, 0xE7, 0xEB, 0xEF, 0xF2, 0xF3, 0xF4, 0xF7, 0xFA, 0xFB, 0xFC, 0xFF]

/-- The instruction is a row of the opcode table: its operand form, or its undocumented opcode, is one the table has. -/
def Instr.wf : Instr → Bool
  | .lda r | .adc r | .sbc r | .cmp r | .and r | .ora r | .eor r => r.isAluForm
  | .ldx r => r.isLdxForm
  | .ldy r => r.isLdyForm
  | .sta r => r.isStaForm
  | .stx r => r.isStxForm
  | .sty r => r.isStyForm
  | .inc r | .dec r => r.isModifyForm
  | .asl r | .lsr r | .rol r | .ror r => r.isShiftForm
  | .cpx r | .cpy r => r.isCompareIndexForm
  | .bit r => r.isBitForm
  | .jmp r => r.isJumpForm
  | .undoc opc => undocumentedOpcodes.contains opc
  | .tax | .tay | .txa | .tya | .tsx | .txs | .inx | .iny | .dex | .dey => true
  | .bcc _ | .bcs _ | .beq _ | .bne _ | .bmi _ | .bpl _ | .bvc _ | .bvs _ => true
  | .jsr _ | .rts | .pha | .pla | .php | .plp => true
  | .clc | .sec | .cld | .sed | .cli | .sei | .clv | .brk | .rti | .nop => true

end Sys2Proof
end

