-- ==== Sys2Proof/Decode.lean ====
section
/-! DEFINITION. The decoder, from the opcode map of `30_encoding.md` R93; then the dispatch table R99 (opcode, base cost
and page-crossing penalty of each row), from the tables of `41_load_store.md` to `49_flags_system.md`; and the encoder,
from that table and the formats of R91. -/

namespace Sys2Proof

/-- The instruction with opcode `opc` and, where its format has them, the operand byte `b` (`nn`, `zz` or `rr`) or the
operand word `w` (`hh:ll`); the map of R93. Every value R93 leaves blank is the undocumented fallback (R95), so the
function is total (R99). -/
def decodeOpcode (opc b : Byte) (w : Addr) : Instr :=
  match opc with
  | 0x00 => .brk
  | 0x01 => .ora (.izx b)
  | 0x05 => .ora (.zp b)
  | 0x06 => .asl (.zp b)
  | 0x08 => .php
  | 0x09 => .ora (.imm b)
  | 0x0A => .asl .acc
  | 0x0D => .ora (.abs w)
  | 0x0E => .asl (.abs w)
  | 0x10 => .bpl b
  | 0x11 => .ora (.izy b)
  | 0x15 => .ora (.zpx b)
  | 0x16 => .asl (.zpx b)
  | 0x18 => .clc
  | 0x19 => .ora (.aby w)
  | 0x1D => .ora (.abx w)
  | 0x1E => .asl (.abx w)
  | 0x20 => .jsr w
  | 0x21 => .and (.izx b)
  | 0x24 => .bit (.zp b)
  | 0x25 => .and (.zp b)
  | 0x26 => .rol (.zp b)
  | 0x28 => .plp
  | 0x29 => .and (.imm b)
  | 0x2A => .rol .acc
  | 0x2C => .bit (.abs w)
  | 0x2D => .and (.abs w)
  | 0x2E => .rol (.abs w)
  | 0x30 => .bmi b
  | 0x31 => .and (.izy b)
  | 0x35 => .and (.zpx b)
  | 0x36 => .rol (.zpx b)
  | 0x38 => .sec
  | 0x39 => .and (.aby w)
  | 0x3D => .and (.abx w)
  | 0x3E => .rol (.abx w)
  | 0x40 => .rti
  | 0x41 => .eor (.izx b)
  | 0x45 => .eor (.zp b)
  | 0x46 => .lsr (.zp b)
  | 0x48 => .pha
  | 0x49 => .eor (.imm b)
  | 0x4A => .lsr .acc
  | 0x4C => .jmp (.abs w)
  | 0x4D => .eor (.abs w)
  | 0x4E => .lsr (.abs w)
  | 0x50 => .bvc b
  | 0x51 => .eor (.izy b)
  | 0x55 => .eor (.zpx b)
  | 0x56 => .lsr (.zpx b)
  | 0x58 => .cli
  | 0x59 => .eor (.aby w)
  | 0x5D => .eor (.abx w)
  | 0x5E => .lsr (.abx w)
  | 0x60 => .rts
  | 0x61 => .adc (.izx b)
  | 0x65 => .adc (.zp b)
  | 0x66 => .ror (.zp b)
  | 0x68 => .pla
  | 0x69 => .adc (.imm b)
  | 0x6A => .ror .acc
  | 0x6C => .jmp (.ind w)
  | 0x6D => .adc (.abs w)
  | 0x6E => .ror (.abs w)
  | 0x70 => .bvs b
  | 0x71 => .adc (.izy b)
  | 0x75 => .adc (.zpx b)
  | 0x76 => .ror (.zpx b)
  | 0x78 => .sei
  | 0x79 => .adc (.aby w)
  | 0x7D => .adc (.abx w)
  | 0x7E => .ror (.abx w)
  | 0x81 => .sta (.izx b)
  | 0x84 => .sty (.zp b)
  | 0x85 => .sta (.zp b)
  | 0x86 => .stx (.zp b)
  | 0x88 => .dey
  | 0x8A => .txa
  | 0x8C => .sty (.abs w)
  | 0x8D => .sta (.abs w)
  | 0x8E => .stx (.abs w)
  | 0x90 => .bcc b
  | 0x91 => .sta (.izy b)
  | 0x94 => .sty (.zpx b)
  | 0x95 => .sta (.zpx b)
  | 0x96 => .stx (.zpy b)
  | 0x98 => .tya
  | 0x99 => .sta (.aby w)
  | 0x9A => .txs
  | 0x9D => .sta (.abx w)
  | 0xA0 => .ldy (.imm b)
  | 0xA1 => .lda (.izx b)
  | 0xA2 => .ldx (.imm b)
  | 0xA4 => .ldy (.zp b)
  | 0xA5 => .lda (.zp b)
  | 0xA6 => .ldx (.zp b)
  | 0xA8 => .tay
  | 0xA9 => .lda (.imm b)
  | 0xAA => .tax
  | 0xAC => .ldy (.abs w)
  | 0xAD => .lda (.abs w)
  | 0xAE => .ldx (.abs w)
  | 0xB0 => .bcs b
  | 0xB1 => .lda (.izy b)
  | 0xB4 => .ldy (.zpx b)
  | 0xB5 => .lda (.zpx b)
  | 0xB6 => .ldx (.zpy b)
  | 0xB8 => .clv
  | 0xB9 => .lda (.aby w)
  | 0xBA => .tsx
  | 0xBC => .ldy (.abx w)
  | 0xBD => .lda (.abx w)
  | 0xBE => .ldx (.aby w)
  | 0xC0 => .cpy (.imm b)
  | 0xC1 => .cmp (.izx b)
  | 0xC4 => .cpy (.zp b)
  | 0xC5 => .cmp (.zp b)
  | 0xC6 => .dec (.zp b)
  | 0xC8 => .iny
  | 0xC9 => .cmp (.imm b)
  | 0xCA => .dex
  | 0xCC => .cpy (.abs w)
  | 0xCD => .cmp (.abs w)
  | 0xCE => .dec (.abs w)
  | 0xD0 => .bne b
  | 0xD1 => .cmp (.izy b)
  | 0xD5 => .cmp (.zpx b)
  | 0xD6 => .dec (.zpx b)
  | 0xD8 => .cld
  | 0xD9 => .cmp (.aby w)
  | 0xDD => .cmp (.abx w)
  | 0xDE => .dec (.abx w)
  | 0xE0 => .cpx (.imm b)
  | 0xE1 => .sbc (.izx b)
  | 0xE4 => .cpx (.zp b)
  | 0xE5 => .sbc (.zp b)
  | 0xE6 => .inc (.zp b)
  | 0xE8 => .inx
  | 0xE9 => .sbc (.imm b)
  | 0xEA => .nop
  | 0xEC => .cpx (.abs w)
  | 0xED => .sbc (.abs w)
  | 0xEE => .inc (.abs w)
  | 0xF0 => .beq b
  | 0xF1 => .sbc (.izy b)
  | 0xF5 => .sbc (.zpx b)
  | 0xF6 => .inc (.zpx b)
  | 0xF8 => .sed
  | 0xF9 => .sbc (.aby w)
  | 0xFD => .sbc (.abx w)
  | 0xFE => .inc (.abx w)
  | _ => .undoc opc

/-- The operand of an instruction: its addressing mode and operand bytes (R64, R91). -/
def Instr.operand : Instr → Operand
  | .lda r | .ldx r | .ldy r | .sta r | .stx r | .sty r => r
  | .inc r | .dec r | .adc r | .sbc r | .cmp r | .cpx r | .cpy r => r
  | .and r | .ora r | .eor r | .bit r | .asl r | .lsr r | .rol r | .ror r | .jmp r => r
  | .bcc rr | .bcs rr | .beq rr | .bne rr | .bmi rr | .bpl rr | .bvc rr | .bvs rr => .rel rr
  | .jsr hhll => .abs hhll
  | .tax | .tay | .txa | .tya | .tsx | .txs | .inx | .iny | .dex | .dey => .imp
  | .rts | .pha | .pla | .php | .plp => .imp
  | .clc | .sec | .cld | .sed | .cli | .sei | .clv | .brk | .rti | .nop | .undoc _ => .imp

/-- How many operand bytes a mode has (R64, R96). -/
def Operand.byteCount : Operand → Nat
  | .imp | .acc => 0
  | .imm _ | .zp _ | .zpx _ | .zpy _ | .izx _ | .izy _ | .rel _ => 1
  | .abs _ | .abx _ | .aby _ | .ind _ => 2

/-- The operand bytes in the order of the instruction stream, the low byte of an address first (R91). -/
def Operand.bytes : Operand → List Byte
  | .imp | .acc => []
  | .imm b | .zp b | .zpx b | .zpy b | .izx b | .izy b | .rel b => [b]
  | .abs w | .abx w | .aby w | .ind w => [loByte w, hiByte w]

/-- The length of an instruction in bytes (R90, R96). -/
def Instr.size (i : Instr) : Nat := 1 + i.operand.byteCount

/-- The length opcode `opc` gives its instruction: the opcode alone decides it (R90, R96). -/
def operandBytesOf (opc : Byte) : Nat := (decodeOpcode opc 0 0).operand.byteCount

/-- Why a list of bytes is no instruction. No opcode value is refused (R95, R99): only too few bytes are. -/
inductive DecodeError where
  /-- there is no byte at all -/
  | noOpcode
  /-- the opcode's format needs more operand bytes than follow -/
  | truncated (opc : Byte)
  deriving DecidableEq, Repr

/-- What the decoder answers: an instruction with the bytes after it, or the named reason why there is none. -/
inductive Decoded where
  | instr (i : Instr) (rest : List Byte)
  | rejected (why : DecodeError)
  deriving DecidableEq, Repr

/-- Reads one instruction from the head of a byte list, an address low byte first (R90, R91). -/
def decode : List Byte → Decoded
  | [] => .rejected .noOpcode
  | opc :: rest =>
    match operandBytesOf opc, rest with
    | 0, rest => .instr (decodeOpcode opc 0 0) rest
    | 1, b :: rest => .instr (decodeOpcode opc b 0) rest
    | 2, ll :: hh :: rest => .instr (decodeOpcode opc 0 (ofBytes hh ll)) rest
    | _, _ => .rejected (.truncated opc)

/-- One entry of `DISPATCH` (R99): the opcode value, the base cycle cost and `pen`, true where the row takes the
page-crossing penalty (R102). The instruction and its mode are the entry's key. -/
structure Row where
  opcode : Byte
  base : Nat
  pen : Bool
  deriving DecidableEq, Repr

/-- A row with a fixed cost. -/
def row (opcode : Byte) (base : Nat) : Option Row := some { opcode, base, pen := false }

/-- A row that costs one more when its indexed address leaves the base's page (R102). -/
def penRow (opcode : Byte) (base : Nat) : Option Row := some { opcode, base, pen := true }

/-- The dispatch table, keyed by the instruction with its operand form; none where the table has no such row (R99). -/
def dispatch : Instr → Option Row
  | .lda (.imm _) => row 0xA9 2
  | .lda (.zp _) => row 0xA5 3
  | .lda (.zpx _) => row 0xB5 4
  | .lda (.abs _) => row 0xAD 4
  | .lda (.abx _) => penRow 0xBD 4
  | .lda (.aby _) => penRow 0xB9 4
  | .lda (.izx _) => row 0xA1 6
  | .lda (.izy _) => penRow 0xB1 5
  | .lda _ => none
  | .ldx (.imm _) => row 0xA2 2
  | .ldx (.zp _) => row 0xA6 3
  | .ldx (.zpy _) => row 0xB6 4
  | .ldx (.abs _) => row 0xAE 4
  | .ldx (.aby _) => penRow 0xBE 4
  | .ldx _ => none
  | .ldy (.imm _) => row 0xA0 2
  | .ldy (.zp _) => row 0xA4 3
  | .ldy (.zpx _) => row 0xB4 4
  | .ldy (.abs _) => row 0xAC 4
  | .ldy (.abx _) => penRow 0xBC 4
  | .ldy _ => none
  | .sta (.zp _) => row 0x85 3
  | .sta (.zpx _) => row 0x95 4
  | .sta (.abs _) => row 0x8D 4
  | .sta (.abx _) => row 0x9D 5
  | .sta (.aby _) => row 0x99 5
  | .sta (.izx _) => row 0x81 6
  | .sta (.izy _) => row 0x91 6
  | .sta _ => none
  | .stx (.zp _) => row 0x86 3
  | .stx (.zpy _) => row 0x96 4
  | .stx (.abs _) => row 0x8E 4
  | .stx _ => none
  | .sty (.zp _) => row 0x84 3
  | .sty (.zpx _) => row 0x94 4
  | .sty (.abs _) => row 0x8C 4
  | .sty _ => none
  | .tax => row 0xAA 2
  | .tay => row 0xA8 2
  | .txa => row 0x8A 2
  | .tya => row 0x98 2
  | .tsx => row 0xBA 2
  | .txs => row 0x9A 2
  | .inc (.zp _) => row 0xE6 5
  | .inc (.zpx _) => row 0xF6 6
  | .inc (.abs _) => row 0xEE 6
  | .inc (.abx _) => row 0xFE 7
  | .inc _ => none
  | .inx => row 0xE8 2
  | .iny => row 0xC8 2
  | .dec (.zp _) => row 0xC6 5
  | .dec (.zpx _) => row 0xD6 6
  | .dec (.abs _) => row 0xCE 6
  | .dec (.abx _) => row 0xDE 7
  | .dec _ => none
  | .dex => row 0xCA 2
  | .dey => row 0x88 2
  | .adc (.imm _) => row 0x69 2
  | .adc (.zp _) => row 0x65 3
  | .adc (.zpx _) => row 0x75 4
  | .adc (.abs _) => row 0x6D 4
  | .adc (.abx _) => penRow 0x7D 4
  | .adc (.aby _) => penRow 0x79 4
  | .adc (.izx _) => row 0x61 6
  | .adc (.izy _) => penRow 0x71 5
  | .adc _ => none
  | .sbc (.imm _) => row 0xE9 2
  | .sbc (.zp _) => row 0xE5 3
  | .sbc (.zpx _) => row 0xF5 4
  | .sbc (.abs _) => row 0xED 4
  | .sbc (.abx _) => penRow 0xFD 4
  | .sbc (.aby _) => penRow 0xF9 4
  | .sbc (.izx _) => row 0xE1 6
  | .sbc (.izy _) => penRow 0xF1 5
  | .sbc _ => none
  | .cmp (.imm _) => row 0xC9 2
  | .cmp (.zp _) => row 0xC5 3
  | .cmp (.zpx _) => row 0xD5 4
  | .cmp (.abs _) => row 0xCD 4
  | .cmp (.abx _) => penRow 0xDD 4
  | .cmp (.aby _) => penRow 0xD9 4
  | .cmp (.izx _) => row 0xC1 6
  | .cmp (.izy _) => penRow 0xD1 5
  | .cmp _ => none
  | .cpx (.imm _) => row 0xE0 2
  | .cpx (.zp _) => row 0xE4 3
  | .cpx (.abs _) => row 0xEC 4
  | .cpx _ => none
  | .cpy (.imm _) => row 0xC0 2
  | .cpy (.zp _) => row 0xC4 3
  | .cpy (.abs _) => row 0xCC 4
  | .cpy _ => none
  | .and (.imm _) => row 0x29 2
  | .and (.zp _) => row 0x25 3
  | .and (.zpx _) => row 0x35 4
  | .and (.abs _) => row 0x2D 4
  | .and (.abx _) => penRow 0x3D 4
  | .and (.aby _) => penRow 0x39 4
  | .and (.izx _) => row 0x21 6
  | .and (.izy _) => penRow 0x31 5
  | .and _ => none
  | .ora (.imm _) => row 0x09 2
  | .ora (.zp _) => row 0x05 3
  | .ora (.zpx _) => row 0x15 4
  | .ora (.abs _) => row 0x0D 4
  | .ora (.abx _) => penRow 0x1D 4
  | .ora (.aby _) => penRow 0x19 4
  | .ora (.izx _) => row 0x01 6
  | .ora (.izy _) => penRow 0x11 5
  | .ora _ => none
  | .eor (.imm _) => row 0x49 2
  | .eor (.zp _) => row 0x45 3
  | .eor (.zpx _) => row 0x55 4
  | .eor (.abs _) => row 0x4D 4
  | .eor (.abx _) => penRow 0x5D 4
  | .eor (.aby _) => penRow 0x59 4
  | .eor (.izx _) => row 0x41 6
  | .eor (.izy _) => penRow 0x51 5
  | .eor _ => none
  | .bit (.zp _) => row 0x24 3
  | .bit (.abs _) => row 0x2C 4
  | .bit _ => none
  | .asl .acc => row 0x0A 2
  | .asl (.zp _) => row 0x06 5
  | .asl (.zpx _) => row 0x16 6
  | .asl (.abs _) => row 0x0E 6
  | .asl (.abx _) => row 0x1E 7
  | .asl _ => none
  | .lsr .acc => row 0x4A 2
  | .lsr (.zp _) => row 0x46 5
  | .lsr (.zpx _) => row 0x56 6
  | .lsr (.abs _) => row 0x4E 6
  | .lsr (.abx _) => row 0x5E 7
  | .lsr _ => none
  | .rol .acc => row 0x2A 2
  | .rol (.zp _) => row 0x26 5
  | .rol (.zpx _) => row 0x36 6
  | .rol (.abs _) => row 0x2E 6
  | .rol (.abx _) => row 0x3E 7
  | .rol _ => none
  | .ror .acc => row 0x6A 2
  | .ror (.zp _) => row 0x66 5
  | .ror (.zpx _) => row 0x76 6
  | .ror (.abs _) => row 0x6E 6
  | .ror (.abx _) => row 0x7E 7
  | .ror _ => none
  | .bcc _ => row 0x90 2
  | .bcs _ => row 0xB0 2
  | .beq _ => row 0xF0 2
  | .bne _ => row 0xD0 2
  | .bmi _ => row 0x30 2
  | .bpl _ => row 0x10 2
  | .bvc _ => row 0x50 2
  | .bvs _ => row 0x70 2
  | .jmp (.abs _) => row 0x4C 3
  | .jmp (.ind _) => row 0x6C 5
  | .jmp _ => none
  | .jsr _ => row 0x20 6
  | .rts => row 0x60 6
  | .pha => row 0x48 3
  | .pla => row 0x68 4
  | .php => row 0x08 3
  | .plp => row 0x28 4
  | .clc => row 0x18 2
  | .sec => row 0x38 2
  | .cld => row 0xD8 2
  | .sed => row 0xF8 2
  | .cli => row 0x58 2
  | .sei => row 0x78 2
  | .clv => row 0xB8 2
  | .brk => row 0x00 7
  | .rti => row 0x40 6
  | .nop => row 0xEA 2
  | .undoc opc => if undocumentedOpcodes.contains opc then row opc Config.undocCycles else none

/-- The bytes of an instruction: its row's opcode, then its operand bytes (R90, R91); nothing where there is no row. -/
def encode (i : Instr) : List Byte :=
  match dispatch i with
  | some e => e.opcode :: i.operand.bytes
  | none => []

/-- The bytes at the low end of `w`, byte 0 first: bits 7..0, 15..8 and 23..16 (an instruction has at most three
bytes, R90), with every bit from `nbits` up taken as 0. -/
def tableBytes (nbits w : Nat) : List Byte :=
  let v := w % 2 ^ nbits
  [BitVec.ofNat 8 v, BitVec.ofNat 8 (v / 256), BitVec.ofNat 8 (v / 65536)]

/-- The instruction the decoder reads from an opcode-table word: bit 0 is the low bit of the first byte, a later
byte's bits count on from it, and the bits above `nbits` are 0. -/
def decodeTableWord (nbits w : Nat) : Option Instr :=
  match decode (tableBytes nbits w) with
  | .instr i _ => some i
  | .rejected _ => none

end Sys2Proof
end

