-- ==== Sys2Proof/Machine/State.lean ====
section
/-! DEFINITION. The machine's state as plain data (`10_state.md` R45, `20_memory.md` R51), its faults and refusals, and
the state after reset. -/

namespace Sys2Proof.Machine

/-- The status register P: seven independent stored flags (R26). Bit 5 has no storage (R35). -/
structure Flags where
  c : Bool
  z : Bool
  i : Bool
  d : Bool
  b : Bool
  v : Bool
  n : Bool
  deriving DecidableEq, Repr

/-- `ic_state`, the interrupt controller's state (R42, R272). It is `running` at every instruction boundary. -/
inductive IcState where
  | running
  | servicingReset
  | servicingNmi
  | servicingIrq
  | servicingBrk
  deriving DecidableEq, Repr

/-- A range of addresses, both ends included, that the bus does not serve as plain memory: device registers, mirrors,
open bus (R52, R80, R81). Plain memory is what answers the byte last stored there. What a window answers is the free
value `Config.busAnswer`. -/
structure Window where
  first : Addr
  last : Addr
  deriving DecidableEq, Repr

/-- The bus collaborator's state (`BusState`, R51). `mem` is plain memory in canonical form (`Memory.wf`); `windows`
says which addresses are not plain memory; `log` is the history: every access the core made (R55, R83) and every change
the owner made between steps (R338), newest first. -/
structure Bus where
  mem : List Host.Cell
  windows : List Window
  log : List BusEvent
  deriving DecidableEq, Repr

/-- The state of the machine (R45). -/
structure State where
  /-- the accumulator (R21) -/
  a : Byte
  /-- the index register X (R22) -/
  x : Byte
  /-- the index register Y (R23) -/
  y : Byte
  /-- the stack pointer: the low byte of the address of the next free stack byte (R24) -/
  sp : Byte
  /-- the program counter: between steps, the address of the next opcode byte (R25) -/
  pc : Addr
  /-- the status register (R26) -/
  p : Flags
  /-- the NMI latch (R40, R273) -/
  nmiPending : Bool
  /-- the level of the IRQ line (R41, R274) -/
  irqLine : Bool
  /-- the interrupt controller's state (R42) -/
  ic : IcState
  /-- the cycle counter, unbounded (R43) -/
  cycles : Nat
  /-- the bus and the memory behind it (R50, R51) -/
  bus : Bus
  deriving DecidableEq, Repr

/-- The faults of the machine: none. "A model has no fault outcome for a step" (`60_exceptions.md` R270), so the type
is empty and nothing can raise one. -/
inductive Fault where
  deriving DecidableEq, Repr

/-- Why `exec` gives a term of `Instr` no meaning. `step` never answers either: every byte decodes to a well-formed
instruction (R99, R104). -/
inductive Refusal where
  /-- Raised by an arm of `exec` whose instruction has no meaning yet. Safe: the machine stops. -/
  | notModelled (mnemonic : String)
  /-- Raised by a meaning whose operand form, or whose opcode, has no row in the opcode table: the term of `Instr` is
  no instruction of the core and has no encoding, and the decoder never gives it. Safe: the machine stops. -/
  | noSuchForm (mnemonic : String)
  deriving DecidableEq, Repr

/-- The state after `power_on()` (`70_reset_and_hazards.md` R322, R325) with the draw `Config.testLogDraw`, over the
reference bus `BUS_FLAT` (R88) with nothing listed: SP is 0x00 - 3, I is 1, PC is the word at 0xFFFC, `cycles` is
0 + 7, and the log holds the two vector reads. `Laws.reset_eq_powerOn` shows it equal to `powerOn` of that draw. -/
def State.reset : State :=
  { a := 0x00, x := 0x00, y := 0x00, sp := 0xFD, pc := 0x0000,
    p := { c := false, z := false, i := true, d := false, b := true, v := false, n := false },
    nmiPending := false, irqLine := false, ic := .running, cycles := 7,
    bus := { mem := [], windows := [], log := [.read 0xFFFD 0x00, .read 0xFFFC 0x00] } }

end Sys2Proof.Machine
end

