-- ==== Sys2Proof/Machine/Ops.lean ====
section
/-! DEFINITION. The named operations over memory, the bus, the registers and the stack (`20_memory.md` R50 to R63),
the packing of P (`10_state.md` R37, R38), taking an interrupt (`60_exceptions.md` R280), reset and power-on
(`70_reset_and_hazards.md` R320, R322), the return from interrupt (`49_flags_system.md` R248) and the fetch of an
instruction (`30_encoding.md` R100). -/

namespace Sys2Proof.Machine

/-! ### Memory: a canonical list of cells -/

/-- What an unlisted address reads as: 0x00. DESIGN CHOICE, log entry 2 (the convention of `95_test_vectors.md`);
unsafe where a claim leans on a byte nothing has written. -/
def Memory.unlisted : Byte := 0x00

/-- The byte a list of cells holds at `a`. -/
def Memory.read : List Host.Cell → Nat → Byte
  | [], _ => Memory.unlisted
  | (k, v) :: rest, a => if k = a then v else Memory.read rest a

/-- The cells without any entry of `a`. -/
def Memory.erase : List Host.Cell → Nat → List Host.Cell
  | [], _ => []
  | (k, v) :: rest, a => if k = a then Memory.erase rest a else (k, v) :: Memory.erase rest a

/-- The cells with `(a, v)` put in its place by address, replacing an entry of `a`. -/
def Memory.insert : List Host.Cell → Nat → Byte → List Host.Cell
  | [], a, v => [(a, v)]
  | (k, w) :: rest, a, v =>
    if a < k then (a, v) :: (k, w) :: rest
    else if k = a then (a, v) :: rest
    else (k, w) :: Memory.insert rest a v

/-- The cells after `v` is stored at `a`; storing what an unlisted address reads as removes the entry. -/
def Memory.write (m : List Host.Cell) (a : Nat) (v : Byte) : List Host.Cell :=
  if v = Memory.unlisted then Memory.erase m a else Memory.insert m a v

/-- The cells from address `lo` on are in canonical form: addresses rise strictly and lie in the 64 KiB space (R50),
and no entry equals what an unlisted address reads as. -/
def Memory.wfFrom : Nat → List Host.Cell → Bool
  | _, [] => true
  | lo, (k, v) :: rest => decide (lo ≤ k) && decide (k < 65536) && v != Memory.unlisted && Memory.wfFrom (k + 1) rest

/-- The canonical form of a memory. -/
def Memory.wf (m : List Host.Cell) : Bool := Memory.wfFrom 0 m

/-! ### The bus -/

/-- The address lies in the window. -/
def Window.covers (w : Window) (a : Addr) : Bool := decide (w.first ≤ a) && decide (a ≤ w.last)

/-- The address is not plain memory. -/
def Bus.inWindow (b : Bus) (a : Addr) : Bool := b.windows.any (·.covers a)

/-- The byte the bus answers to a read of `a` now: the memory byte, or the free value in a window (R52, R80). -/
def Bus.answer (b : Bus) (a : Addr) : Byte :=
  if b.inWindow a then Config.busAnswer b.log a else Memory.read b.mem a.toNat

/-- `bus_read` (R51): it always succeeds (R52), and the access joins the log. -/
def Bus.read (b : Bus) (a : Addr) : Byte × Bus :=
  (b.answer a, { b with log := .read a (b.answer a) :: b.log })

/-- The cells after a byte is stored at `a` through the bus, by the core or by the owner. A store into a window changes
no cell (DESIGN CHOICE, log entry 10; unsafe where a device changes plain memory by itself). -/
def Bus.stored (b : Bus) (a : Addr) (v : Byte) : List Host.Cell :=
  if b.inWindow a then b.mem else Memory.write b.mem a.toNat v

/-- `bus_write` (R51): it always succeeds, and the access joins the log. -/
def Bus.write (b : Bus) (a : Addr) (v : Byte) : Bus := { b with mem := b.stored a v, log := .write a v :: b.log }

/-- The owner's store between steps (R338): into RAM the byte is stored, into a device register it is for the device to
answer by, since the store joins the history that window reads answer from. -/
def Bus.ownerStore (b : Bus) (a : Addr) (v : Byte) : Bus :=
  { b with mem := b.stored a v, log := .ownerStore a v :: b.log }

/-- The owner's change inside a device between steps (R338): it joins the history that window reads answer from. -/
def Bus.deviceChange (b : Bus) (what : Nat) : Bus := { b with log := .deviceChange what :: b.log }

/-! ### Register updates -/

/-- `A <- v`. -/
def State.setA (s : State) (v : Byte) : State := { s with a := v }
/-- `X <- v`. -/
def State.setX (s : State) (v : Byte) : State := { s with x := v }
/-- `Y <- v`. -/
def State.setY (s : State) (v : Byte) : State := { s with y := v }
/-- `SP <- v`. -/
def State.setSp (s : State) (v : Byte) : State := { s with sp := v }
/-- `PC <- v`. -/
def State.setPc (s : State) (v : Addr) : State := { s with pc := v }
/-- P takes the seven flags of `v`. -/
def State.setP (s : State) (v : Flags) : State := { s with p := v }
/-- `nmi_pending <- v`. -/
def State.setNmiPending (s : State) (v : Bool) : State := { s with nmiPending := v }
/-- `irq_line <- v`. -/
def State.setIrqLine (s : State) (v : Bool) : State := { s with irqLine := v }
/-- `ic_state <- v`. -/
def State.setIc (s : State) (v : IcState) : State := { s with ic := v }
/-- `cycles <- cycles + n` (R9, R43). -/
def State.addCycles (s : State) (n : Nat) : State := { s with cycles := s.cycles + n }
/-- The bus's state becomes `b`. -/
def State.setBus (s : State) (b : Bus) : State := { s with bus := b }

/-! ### Bus accesses of the core -/

/-- The byte plain memory holds at `a`, whether or not the bus serves it. No access is made. -/
def State.byteAt (s : State) (a : Addr) : Byte := Memory.read s.bus.mem a.toNat

/-- `MemRead(a, 1)` (R9). -/
def State.memRead (s : State) (a : Addr) : Byte × State := ((s.bus.read a).1, s.setBus (s.bus.read a).2)

/-- `MemWrite(a, 1, v)` (R9). -/
def State.memWrite (s : State) (a : Addr) (v : Byte) : State := s.setBus (s.bus.write a v)

/-- `fetch8()` (R56). -/
def State.fetch8 (s : State) : Byte × State :=
  let r := s.memRead s.pc
  (r.1, r.2.setPc (s.pc + 1))

/-- `fetch16()`: the low byte first (R57). -/
def State.fetch16 (s : State) : Addr × State :=
  let ll := s.fetch8
  let hh := ll.2.fetch8
  (ofBytes hh.1 ll.1, hh.2)

/-- Reads the byte at `lo`, then the byte at `hi`, and gives `hh:ll`. -/
def State.readPair (s : State) (lo hi : Addr) : Addr × State :=
  let ll := s.memRead lo
  let hh := ll.2.memRead hi
  (ofBytes hh.1 ll.1, hh.2)

/-- `read16(a)`: the second byte is at `a + 1` modulo 65536 (R58). -/
def State.read16 (s : State) (a : Addr) : Addr × State := s.readPair a (a + 1)

/-- `read16_zp(p)`: both bytes are in the zero page (R59). -/
def State.read16Zp (s : State) (p : Byte) : Addr × State := s.readPair (zext16 p) (zext16 (p + 1))

/-- `read16_jmpbug(q)`: the second byte is in the pointer's page (R60). -/
def State.read16JmpBug (s : State) (q : Addr) : Addr × State :=
  s.readPair q (ofBytes (hiByte q) (loByte q + 1))

/-! ### The stack -/

/-- `stack_addr(sp)`: page 1 and the stack pointer (R61). -/
def stackAddr (sp : Byte) : Addr := 0x0100 ||| zext16 sp

/-- `push(v)`: write, then decrement (R62). -/
def State.push (s : State) (v : Byte) : State := (s.memWrite (stackAddr s.sp) v).setSp (s.sp - 1)

/-- `pull()`: increment, then read (R63). -/
def State.pull (s : State) : Byte × State := (s.setSp (s.sp + 1)).memRead (stackAddr (s.sp + 1))

/-- Pushes a 16-bit value, high byte first (R221, R280). -/
def State.pushWord (s : State) (w : Addr) : State := (s.push (hiByte w)).push (loByte w)

/-- Pulls a 16-bit value, low byte first (R222, R248). -/
def State.pullWord (s : State) : Addr × State :=
  let lo := s.pull
  let hi := lo.2.pull
  (ofBytes hi.1 lo.1, hi.2)

/-! ### The status byte -/

/-- `pack_P(b)`: N V 1 b D I Z C from bit 7 down (R27, R37). -/
def Flags.pack (p : Flags) (b : Bool) : Byte :=
  BitVec.ofBool p.n ++ BitVec.ofBool p.v ++ BitVec.ofBool true ++ BitVec.ofBool b
    ++ BitVec.ofBool p.d ++ BitVec.ofBool p.i ++ BitVec.ofBool p.z ++ BitVec.ofBool p.c

/-- `unpack_P(v)`: the seven flags of `v`; bit 5 is ignored (R38). -/
def Flags.unpack (v : Byte) : Flags :=
  { c := v.getLsbD 0, z := v.getLsbD 1, i := v.getLsbD 2, d := v.getLsbD 3,
    b := v.getLsbD 4, v := v.getLsbD 6, n := v.getLsbD 7 }

/-- Pulls a byte and takes all seven flags from it: PLP (R226) and the first part of RTI (R248). -/
def State.pullStatus (s : State) : State := s.pull.2.setP (Flags.unpack s.pull.1)

/-! ### Events: interrupt entry and return -/

/-- An event the controller enters through `enter_interrupt` (R271, R280). -/
inductive Event where
  | nmi
  | irq
  | brk
  deriving DecidableEq, Repr

/-- The vector of an event: 0xFFFA for NMI, 0xFFFE for IRQ and BRK (R271). -/
def Event.vector : Event → Addr
  | .nmi => 0xFFFA
  | .irq | .brk => 0xFFFE

/-- Bit 4 of the status byte the event pushes: 1 for BRK only (R282). -/
def Event.breakBit : Event → Bool
  | .nmi | .irq => false
  | .brk => true

/-- The controller's state while it services the event (R272). -/
def Event.servicing : Event → IcState
  | .nmi => .servicingNmi
  | .irq => .servicingIrq
  | .brk => .servicingBrk

/-- The address the event pushes when the program counter is `pc`: `pc` itself for NMI and IRQ, and one more for BRK,
whose `pc` is already the address after the opcode (R280). -/
def Event.returnAddr (e : Event) (pc : Addr) : Addr :=
  match e with
  | .nmi | .irq => pc
  | .brk => pc + 1

/-- The pushes of an entry: the return address, high byte first, then the status byte (R280). -/
def State.pushFrame (s : State) (e : Event) : State :=
  (s.pushWord (e.returnAddr s.pc)).push (s.p.pack e.breakBit)

/-- `P.I <- 1`, as an entry and a reset do (R280, R320). -/
def State.maskIrq (s : State) : State := s.setP { s.p with i := true }

/-- PC takes the word read at the vector (R271, R280, R320). -/
def State.jumpVector (s : State) (vector : Addr) : State := (s.read16 vector).2.setPc (s.read16 vector).1

/-- `enter_interrupt(kind)` (R280): push the return address and the status byte; set I; load PC from the vector. The
stored B and D stay (R282), and the controller is running again at the end (R272). -/
def State.enterInterrupt (s : State) (e : Event) : State :=
  (((s.setIc e.servicing).pushFrame e).maskIrq.jumpVector e.vector).setIc .running

/-- RTI's return (R248, R286): all flags from the pulled byte, then PC from the next two, low byte first, with no + 1. -/
def State.returnFromInterrupt (s : State) : State :=
  let w := s.pullStatus.pullWord
  w.2.setPc w.1

/-- The event a boundary takes: a pending NMI first, else an active unmasked IRQ, else none (R277, R278). -/
def State.pendingEvent (s : State) : Option Event :=
  if s.nmiPending then some .nmi
  else if s.irqLine && !s.p.i then some .irq
  else none

/-- The cycles an NMI or IRQ entry and a reset cost (R284, R320). -/
def entryCycles : Nat := 7

/-- The step that enters an event at a boundary (R100): an NMI clears its latch first (R273). -/
def State.takeEvent (s : State) (e : Event) : State :=
  let taken := if e = .nmi then s.setNmiPending false else s
  (taken.enterInterrupt e).addCycles entryCycles

/-! ### Reset and power-on -/

/-- The reset vector (R271). -/
def resetVector : Addr := 0xFFFC

/-- `reset()` (R320): SP - 3 with no bus access, I set, the NMI latch cleared, PC from the reset vector, 7 cycles. -/
def State.resetCall (s : State) : State :=
  let started := ((s.setIc .servicingReset).setSp (s.sp - 3)).maskIrq.setNmiPending false
  ((started.jumpVector resetVector).addCycles entryCycles).setIc .running

/-- `power_on()` with the draws `d` on the bus `b` (R322); it ends with `reset()`. -/
def State.powerOn (d : Config.PowerOn) (b : Bus) : State :=
  State.resetCall
    { a := d.a, x := d.x, y := d.y, sp := d.sp, pc := 0x0000,
      p := { c := d.c, z := d.z, i := true, d := d.d, b := d.b, v := d.v, n := d.n },
      nmiPending := false, irqLine := false, ic := .running, cycles := d.cycles, bus := b }

/-! ### Fetching an instruction -/

/-- Fetches the opcode and the operand bytes its format has, low byte first, and gives the instruction with PC at the
first byte after it (R100, R103, R55). -/
def State.fetchInstr (s : State) : Instr × State :=
  let opc := s.fetch8
  match operandBytesOf opc.1 with
  | 0 => (decodeOpcode opc.1 0 0, opc.2)
  | 1 =>
    let b := opc.2.fetch8
    (decodeOpcode opc.1 b.1 0, b.2)
  | _ =>
    let w := opc.2.fetch16
    (decodeOpcode opc.1 0 w.1, w.2)

/-- The bytes `bs` stored from `a` on, each at the next address modulo 65536. No access of the core is made. -/
def Memory.place : List Host.Cell → Addr → List Byte → List Host.Cell
  | m, _, [] => m
  | m, a, b :: bs => Memory.place (Memory.write m a.toNat b) (a + 1) bs

/-- The state with `bs` placed where the next step fetches, and with nothing in the way of that fetch: no event
pending at the boundary and no window over the placed bytes (log entry 15). -/
def State.placeAtPc (s : State) (bs : List Byte) : State :=
  let clear := fun w : Window => !((List.range bs.length).any fun k => w.covers (s.pc + BitVec.ofNat 16 k))
  let quiet := (s.setNmiPending false).setIrqLine (s.irqLine && s.p.i)
  quiet.setBus { s.bus with mem := Memory.place s.bus.mem s.pc bs, windows := s.bus.windows.filter clear }

end Sys2Proof.Machine
end

