-- ==== Sys2Proof/Machine/Flags.lean ====
section
/-! DEFINITION. Every flag computation of the spec, as functions of the flags before and the values of the instruction:
`setZN` (`10_state.md` R36), the carries and overflows of `44_arithmetic_compare.md`, BIT (`45_logic.md` R184) and the
shifted-out bit (`46_shift_rotate.md` R190). -/

namespace Sys2Proof.Machine

/-- `setZN(v)`: Z is "v is zero", N is bit 7 of v (R36). -/
def Flags.setZN (p : Flags) (v : Byte) : Flags := { p with z := v == 0, n := v.getLsbD 7 }

/-- The bit of a flag as a 9-bit number, `bool(x)` (R9). -/
def carryIn (c : Bool) : BitVec 9 := (BitVec.ofBool c).setWidth 9

/-- The 9-bit sum of two bytes and a carry (R161). -/
def addWide (a m : Byte) (c : Bool) : BitVec 9 := a.setWidth 9 + m.setWidth 9 + carryIn c

/-- The 8-bit result of an addition with carry: the low eight bits of the sum (R161). -/
def addResult (a m : Byte) (c : Bool) : Byte := (addWide a m c).setWidth 8

/-- The flags of an addition with carry: C the ninth bit, V the sign rule, Z and N of the result (R161). D is not
read (R160). -/
def Flags.ofAdd (p : Flags) (a m : Byte) : Flags :=
  let res := addResult a m p.c
  { p with
    c := (addWide a m p.c).getLsbD 8
    v := ((a ^^^ res) &&& (m ^^^ res)).getLsbD 7
    z := res == 0
    n := res.getLsbD 7 }

/-- The flags of a compare of `reg` with `m`: C is `reg >= m` unsigned, Z is equality, N is bit 7 of the difference
(R164). V is not written. -/
def Flags.ofCompare (p : Flags) (reg m : Byte) : Flags :=
  { p with c := decide (m ≤ reg), z := reg == m, n := (reg - m).getLsbD 7 }

/-- The flags of BIT: Z from `A & m`, V and N from bits 6 and 7 of m (R184). -/
def Flags.ofBit (p : Flags) (a m : Byte) : Flags :=
  { p with z := (a &&& m) == 0, v := m.getLsbD 6, n := m.getLsbD 7 }

/-- The flags of a shift or rotate: C the bit shifted out, Z and N of the result (R190). -/
def Flags.ofShift (p : Flags) (out : Bool) (res : Byte) : Flags := { p with c := out }.setZN res

/-- A shift or rotate: from the carry in and the operand, the result and the bit shifted out (R191 to R194). -/
abbrev ShiftFn := Bool → Byte → Byte × Bool

/-- ASL: left by one, bit 7 out, 0 in (R191). -/
def aslFn : ShiftFn := fun _ v => (v <<< 1, v.getLsbD 7)

/-- LSR: right by one, bit 0 out, 0 in (R192). -/
def lsrFn : ShiftFn := fun _ v => (v >>> 1, v.getLsbD 0)

/-- ROL: left by one through the carry (R193). -/
def rolFn : ShiftFn := fun c v => ((v <<< 1) ||| (BitVec.ofBool c).setWidth 8, v.getLsbD 7)

/-- ROR: right by one through the carry (R194). -/
def rorFn : ShiftFn := fun c v => ((v >>> 1) ||| ((BitVec.ofBool c).setWidth 8 <<< 7), v.getLsbD 0)

end Sys2Proof.Machine
end

