-- ==== Sys2Proof/Machine/Operands.lean ====
section
/-! DEFINITION. The addressing-mode resolver (`20_memory.md` R64 to R77), operand access (R78), and the running of one
row of the dispatch table with its cost (`30_encoding.md` R100, R101). -/

namespace Sys2Proof.Machine

/-- What the resolver gives (R64): nothing, the accumulator, an immediate value, an effective address with the
page-crossing boolean, or a branch target. -/
inductive Target where
  | none
  | acc
  | imm (v : Byte)
  | addr (ea : Addr) (crossed : Bool)
  | rel (target : Addr)
  deriving DecidableEq, Repr

/-- The page-crossing boolean of a result (R64). -/
def Target.crossed : Target → Bool
  | .addr _ crossed => crossed
  | .none | .acc | .imm _ | .rel _ => false

/-- An indexed address: the base plus the index modulo 65536, and whether it left the base's page (R72, R73, R76). -/
def Target.indexed (base : Addr) (index : Byte) : Target :=
  .addr (base + zext16 index) (pageDiffers base (base + zext16 index))

/-- `resolve(mode)` after the operand bytes are fetched, with PC the address of the next instruction (R64 to R77). IND,
IZX and IZY read their pointer from the bus; the other modes make no access. -/
def resolve (o : Operand) (s : State) : Target × State :=
  match o with
  | .imp => (.none, s)
  | .acc => (.acc, s)
  | .imm nn => (.imm nn, s)
  | .zp zz => (.addr (zext16 zz) false, s)
  | .zpx zz => (.addr (zext16 (zz + s.x)) false, s)
  | .zpy zz => (.addr (zext16 (zz + s.y)) false, s)
  | .abs hhll => (.addr hhll false, s)
  | .abx hhll => (.indexed hhll s.x, s)
  | .aby hhll => (.indexed hhll s.y, s)
  | .ind hhll =>
    let w := s.read16JmpBug hhll
    (.addr w.1 false, w.2)
  | .izx zz =>
    let w := s.read16Zp (zz + s.x)
    (.addr w.1 false, w.2)
  | .izy zz =>
    let w := s.read16Zp zz
    (.indexed w.1 s.y, w.2)
  | .rel rr => (.rel (s.pc + sext16 rr), s)

/-- `operand_read(r)` (R78). No row calls it with `none` or `rel`, which name no value; it then reads nothing. -/
def operandRead (r : Target) (s : State) : Byte × State :=
  match r with
  | .imm v => (v, s)
  | .addr ea _ => s.memRead ea
  | .acc => (s.a, s)
  | .none | .rel _ => (0, s)

/-- `operand_write(r, v)` (R78). No row calls it with `imm`, `none` or `rel`, which name no place; it then writes
nothing. -/
def operandWrite (r : Target) (v : Byte) (s : State) : State :=
  match r with
  | .addr ea _ => s.memWrite ea v
  | .acc => s.setA v
  | .imm _ | .none | .rel _ => s

/-- PC becomes the resolved address or branch target (R200, R220); any other result names no target. -/
def jumpTo (r : Target) (s : State) : State :=
  match r with
  | .addr ea _ => s.setPc ea
  | .rel target => s.setPc target
  | .none | .acc | .imm _ => s

/-- The semantics of an instruction, given the resolver's result: the next state and the branch extra (R100). -/
abbrev Sem := Target → State → State × Nat

/-- A semantics with no extra cycles: every instruction but the branches (R100). -/
def plainSem (f : Target → State → State) : Sem := fun r s => (f r s, 0)

/-- One row of the dispatch table run as R100 says: resolve, run the semantics, add base cost, penalty and extra. -/
def runRow (e : Row) (o : Operand) (sem : Sem) (s : State) : State :=
  let r := resolve o s
  let t := sem r.1 r.2
  t.1.addCycles (e.base + (if e.pen && r.1.crossed then 1 else 0) + t.2)

/-- Runs the row of the instruction `i` where the table has one; a term of `Instr` with no row is refused by name. -/
def runInstr (mnemonic : String) (i : Instr) (sem : Sem) (s : State) : Host.Outcome State Fault Refusal :=
  match dispatch i with
  | some e => .next (runRow e i.operand sem s)
  | none => .refused (.noSuchForm mnemonic)

end Sys2Proof.Machine
end

