-- ==== Sys2Proof/Machine/Arithmetic.lean ====
section
/-! DEFINITION. Arithmetic and compare instructions (`44_arithmetic_compare.md` R160 to R167). Neither reads or writes D. -/

namespace Sys2Proof.Machine

/-- A <- A + m + C with the flags of R161, where `m` is `f` of the operand: the operand itself for ADC, its one's
complement for SBC (R162). -/
def addToA (f : Byte → Byte) (r : Target) (s : State) : State :=
  let m := operandRead r s
  (m.2.setA (addResult m.2.a (f m.1) m.2.p.c)).setP (m.2.p.ofAdd m.2.a (f m.1))

/-- Compares a register with the operand: C, Z, N of the difference, which is not stored (R164). -/
def compareWith (get : State → Byte) (r : Target) (s : State) : State :=
  let m := operandRead r s
  m.2.setP (m.2.p.ofCompare (get m.2) m.1)

/-- ADC (R161): A <- A + m + C; C, Z, V, N. -/
def execAdc (r : Operand) (s : State) : Host.Outcome State Fault Refusal :=
  runInstr "ADC" (.adc r) (plainSem (addToA id)) s

/-- SBC (R162): A <- A - m - (1 - C); C, Z, V, N. -/
def execSbc (r : Operand) (s : State) : Host.Outcome State Fault Refusal :=
  runInstr "SBC" (.sbc r) (plainSem (addToA fun m => ~~~m)) s

/-- CMP (R165): A against the operand; C, Z, N. -/
def execCmp (r : Operand) (s : State) : Host.Outcome State Fault Refusal :=
  runInstr "CMP" (.cmp r) (plainSem (compareWith State.a)) s

/-- CPX (R166): X against the operand; C, Z, N. -/
def execCpx (r : Operand) (s : State) : Host.Outcome State Fault Refusal :=
  runInstr "CPX" (.cpx r) (plainSem (compareWith State.x)) s

/-- CPY (R167): Y against the operand; C, Z, N. -/
def execCpy (r : Operand) (s : State) : Host.Outcome State Fault Refusal :=
  runInstr "CPY" (.cpy r) (plainSem (compareWith State.y)) s

end Sys2Proof.Machine
end

