-- ==== Sys2Proof/Machine/Branch.lean ====
section
/-! DEFINITION. Conditional branch instructions (`47_branch.md` R200 to R208). -/

namespace Sys2Proof.Machine

/-- `sem_branch(cond, r)` (R200): when the condition holds PC takes the target and the extra is 1, and one more where
the target's page is not that of the next instruction. -/
def branch (cond : State → Bool) : Sem := fun r s =>
  if cond s then (jumpTo r s, 1 + (if pageDiffers s.pc (jumpTo r s).pc then 1 else 0)) else (s, 0)

/-- BCC (R201): branch if C = 0. -/
def execBcc (rr : Byte) (s : State) : Host.Outcome State Fault Refusal :=
  runInstr "BCC" (.bcc rr) (branch fun s => !s.p.c) s

/-- BCS (R202): branch if C = 1. -/
def execBcs (rr : Byte) (s : State) : Host.Outcome State Fault Refusal :=
  runInstr "BCS" (.bcs rr) (branch fun s => s.p.c) s

/-- BEQ (R203): branch if Z = 1. -/
def execBeq (rr : Byte) (s : State) : Host.Outcome State Fault Refusal :=
  runInstr "BEQ" (.beq rr) (branch fun s => s.p.z) s

/-- BNE (R204): branch if Z = 0. -/
def execBne (rr : Byte) (s : State) : Host.Outcome State Fault Refusal :=
  runInstr "BNE" (.bne rr) (branch fun s => !s.p.z) s

/-- BMI (R205): branch if N = 1. -/
def execBmi (rr : Byte) (s : State) : Host.Outcome State Fault Refusal :=
  runInstr "BMI" (.bmi rr) (branch fun s => s.p.n) s

/-- BPL (R206): branch if N = 0. -/
def execBpl (rr : Byte) (s : State) : Host.Outcome State Fault Refusal :=
  runInstr "BPL" (.bpl rr) (branch fun s => !s.p.n) s

/-- BVC (R207): branch if V = 0. -/
def execBvc (rr : Byte) (s : State) : Host.Outcome State Fault Refusal :=
  runInstr "BVC" (.bvc rr) (branch fun s => !s.p.v) s

/-- BVS (R208): branch if V = 1. -/
def execBvs (rr : Byte) (s : State) : Host.Outcome State Fault Refusal :=
  runInstr "BVS" (.bvs rr) (branch fun s => s.p.v) s

end Sys2Proof.Machine
end

