-- ==== Sys2Proof/Machine/FlagsSystem.lean ====
section
/-! DEFINITION. Flag, interrupt and return, and no-operation instructions, and the undocumented-opcode fallback
(`49_flags_system.md` R239 to R250). -/

namespace Sys2Proof.Machine

/-- CLC (R240): C <- 0. -/
def execClc (s : State) : Host.Outcome State Fault Refusal :=
  runInstr "CLC" .clc (plainSem fun _ s => s.setP { s.p with c := false }) s

/-- SEC (R241): C <- 1. -/
def execSec (s : State) : Host.Outcome State Fault Refusal :=
  runInstr "SEC" .sec (plainSem fun _ s => s.setP { s.p with c := true }) s

/-- CLD (R242): D <- 0. -/
def execCld (s : State) : Host.Outcome State Fault Refusal :=
  runInstr "CLD" .cld (plainSem fun _ s => s.setP { s.p with d := false }) s

/-- SED (R243): D <- 1. -/
def execSed (s : State) : Host.Outcome State Fault Refusal :=
  runInstr "SED" .sed (plainSem fun _ s => s.setP { s.p with d := true }) s

/-- CLI (R244): I <- 0. -/
def execCli (s : State) : Host.Outcome State Fault Refusal :=
  runInstr "CLI" .cli (plainSem fun _ s => s.setP { s.p with i := false }) s

/-- SEI (R245): I <- 1. -/
def execSei (s : State) : Host.Outcome State Fault Refusal :=
  runInstr "SEI" .sei (plainSem fun _ s => s.setP { s.p with i := true }) s

/-- CLV (R246): V <- 0. -/
def execClv (s : State) : Host.Outcome State Fault Refusal :=
  runInstr "CLV" .clv (plainSem fun _ s => s.setP { s.p with v := false }) s

/-- BRK (R247): enters the BRK event, whatever I. -/
def execBrk (s : State) : Host.Outcome State Fault Refusal :=
  runInstr "BRK" .brk (plainSem fun _ s => s.enterInterrupt .brk) s

/-- RTI (R248): pull P, then PC. -/
def execRti (s : State) : Host.Outcome State Fault Refusal :=
  runInstr "RTI" .rti (plainSem fun _ s => s.returnFromInterrupt) s

/-- NOP (R249): nothing but its cost. -/
def execNop (s : State) : Host.Outcome State Fault Refusal :=
  runInstr "NOP" .nop (plainSem fun _ s => s) s

/-- The undocumented-opcode fallback (R250): nothing but its cost, `UNDOC_CYCLES`. -/
def execUndoc (opc : Byte) (s : State) : Host.Outcome State Fault Refusal :=
  runInstr "UNDOC" (.undoc opc) (plainSem fun _ s => s) s

end Sys2Proof.Machine
end

