-- ==== Sys2Proof/Machine/IncDec.lean ====
section
/-! DEFINITION. Increment and decrement instructions (`43_inc_dec.md` R150 to R156). -/

namespace Sys2Proof.Machine

/-- Read-modify-write of a byte of memory: one read, one write of the same address, Z and N of the new value (R150). -/
def modifyByte (f : Byte → Byte) (r : Target) (s : State) : State :=
  let m := operandRead r s
  (operandWrite r (f m.1) m.2).setP (m.2.p.setZN (f m.1))

/-- A register takes `f` of its value; Z and N of the new value (R150). -/
def bump (set : State → Byte → State) (get : State → Byte) (f : Byte → Byte) (s : State) : State :=
  (set s (f (get s))).setP (s.p.setZN (f (get s)))

/-- Plus one modulo 256 (R150). -/
def inc8 (v : Byte) : Byte := v + 1

/-- Minus one modulo 256 (R150). -/
def dec8 (v : Byte) : Byte := v - 1

/-- INC (R151): the byte <- the byte + 1; Z, N. -/
def execInc (r : Operand) (s : State) : Host.Outcome State Fault Refusal :=
  runInstr "INC" (.inc r) (plainSem (modifyByte inc8)) s

/-- INX (R152): X <- X + 1; Z, N. -/
def execInx (s : State) : Host.Outcome State Fault Refusal :=
  runInstr "INX" .inx (plainSem fun _ s => bump State.setX State.x inc8 s) s

/-- INY (R153): Y <- Y + 1; Z, N. -/
def execIny (s : State) : Host.Outcome State Fault Refusal :=
  runInstr "INY" .iny (plainSem fun _ s => bump State.setY State.y inc8 s) s

/-- DEC (R154): the byte <- the byte - 1; Z, N. -/
def execDec (r : Operand) (s : State) : Host.Outcome State Fault Refusal :=
  runInstr "DEC" (.dec r) (plainSem (modifyByte dec8)) s

/-- DEX (R155): X <- X - 1; Z, N. -/
def execDex (s : State) : Host.Outcome State Fault Refusal :=
  runInstr "DEX" .dex (plainSem fun _ s => bump State.setX State.x dec8 s) s

/-- DEY (R156): Y <- Y - 1; Z, N. -/
def execDey (s : State) : Host.Outcome State Fault Refusal :=
  runInstr "DEY" .dey (plainSem fun _ s => bump State.setY State.y dec8 s) s

end Sys2Proof.Machine
end

