-- ==== Sys2Proof/Machine/JumpStack.lean ====
section
/-! DEFINITION. Jump, subroutine and stack instructions (`48_jump_stack.md` R220 to R226). -/

namespace Sys2Proof.Machine

/-- JSR: push the address of the call's last byte, high then low, and go to the target (R221). -/
def callSub (r : Target) (s : State) : State := jumpTo r (s.pushWord (s.pc - 1))

/-- RTS: pull the address, low then high, and go to the one after it (R222). -/
def returnSub (s : State) : State :=
  let w := s.pullWord
  w.2.setPc (w.1 + 1)

/-- PLA: pull into A; Z and N of the value (R224). -/
def pullA (s : State) : State :=
  let v := s.pull
  (v.2.setA v.1).setP (v.2.p.setZN v.1)

/-- JMP (R220): PC <- the resolved address. -/
def execJmp (r : Operand) (s : State) : Host.Outcome State Fault Refusal :=
  runInstr "JMP" (.jmp r) (plainSem jumpTo) s

/-- JSR (R221). -/
def execJsr (hhll : Addr) (s : State) : Host.Outcome State Fault Refusal :=
  runInstr "JSR" (.jsr hhll) (plainSem callSub) s

/-- RTS (R222). -/
def execRts (s : State) : Host.Outcome State Fault Refusal :=
  runInstr "RTS" .rts (plainSem fun _ s => returnSub s) s

/-- PHA (R223): push A; no flag. -/
def execPha (s : State) : Host.Outcome State Fault Refusal :=
  runInstr "PHA" .pha (plainSem fun _ s => s.push s.a) s

/-- PLA (R224): A <- pull; Z, N. -/
def execPla (s : State) : Host.Outcome State Fault Refusal :=
  runInstr "PLA" .pla (plainSem fun _ s => pullA s) s

/-- PHP (R225): push P with bits 4 and 5 set; the stored B stays. -/
def execPhp (s : State) : Host.Outcome State Fault Refusal :=
  runInstr "PHP" .php (plainSem fun _ s => s.push (s.p.pack true)) s

/-- PLP (R226): all seven flags from the pulled byte. -/
def execPlp (s : State) : Host.Outcome State Fault Refusal :=
  runInstr "PLP" .plp (plainSem fun _ s => s.pullStatus) s

end Sys2Proof.Machine
end

