-- ==== Sys2Proof/Machine/LoadStore.lean ====
section
/-! DEFINITION. Load and store instructions (`41_load_store.md` R120 to R126). -/

namespace Sys2Proof.Machine

/-- A load: read the operand once, write the register by `set`, set Z and N from the value (R120). -/
def load (set : State → Byte → State) (r : Target) (s : State) : State :=
  let m := operandRead r s
  (set m.2 m.1).setP (m.2.p.setZN m.1)

/-- A store: write the register's value once, read nothing, no flag (R120). -/
def store (get : State → Byte) (r : Target) (s : State) : State := operandWrite r (get s) s

/-- LDA (R121): A <- operand; Z, N. -/
def execLda (r : Operand) (s : State) : Host.Outcome State Fault Refusal :=
  runInstr "LDA" (.lda r) (plainSem (load State.setA)) s

/-- LDX (R122): X <- operand; Z, N. -/
def execLdx (r : Operand) (s : State) : Host.Outcome State Fault Refusal :=
  runInstr "LDX" (.ldx r) (plainSem (load State.setX)) s

/-- LDY (R123): Y <- operand; Z, N. -/
def execLdy (r : Operand) (s : State) : Host.Outcome State Fault Refusal :=
  runInstr "LDY" (.ldy r) (plainSem (load State.setY)) s

/-- STA (R124): the operand's byte <- A. -/
def execSta (r : Operand) (s : State) : Host.Outcome State Fault Refusal :=
  runInstr "STA" (.sta r) (plainSem (store State.a)) s

/-- STX (R125): the operand's byte <- X. -/
def execStx (r : Operand) (s : State) : Host.Outcome State Fault Refusal :=
  runInstr "STX" (.stx r) (plainSem (store State.x)) s

/-- STY (R126): the operand's byte <- Y. -/
def execSty (r : Operand) (s : State) : Host.Outcome State Fault Refusal :=
  runInstr "STY" (.sty r) (plainSem (store State.y)) s

end Sys2Proof.Machine
end

