-- ==== Sys2Proof/Machine/Logic.lean ====
section
/-! DEFINITION. Logic instructions (`45_logic.md` R180 to R184). -/

namespace Sys2Proof.Machine

/-- A <- f A m; Z and N of the result (R180). -/
def logicToA (f : Byte → Byte → Byte) (r : Target) (s : State) : State :=
  let m := operandRead r s
  (m.2.setA (f m.2.a m.1)).setP (m.2.p.setZN (f m.2.a m.1))

/-- Reads the operand and sets Z from A & m, V and N from m; writes no register (R184). -/
def bitTest (r : Target) (s : State) : State :=
  let m := operandRead r s
  m.2.setP (m.2.p.ofBit m.2.a m.1)

/-- AND (R181): A <- A & m; Z, N. -/
def execAnd (r : Operand) (s : State) : Host.Outcome State Fault Refusal :=
  runInstr "AND" (.and r) (plainSem (logicToA fun a m => a &&& m)) s

/-- ORA (R182): A <- A | m; Z, N. -/
def execOra (r : Operand) (s : State) : Host.Outcome State Fault Refusal :=
  runInstr "ORA" (.ora r) (plainSem (logicToA fun a m => a ||| m)) s

/-- EOR (R183): A <- A ^ m; Z, N. -/
def execEor (r : Operand) (s : State) : Host.Outcome State Fault Refusal :=
  runInstr "EOR" (.eor r) (plainSem (logicToA fun a m => a ^^^ m)) s

/-- BIT (R184): Z, V, N. -/
def execBit (r : Operand) (s : State) : Host.Outcome State Fault Refusal :=
  runInstr "BIT" (.bit r) (plainSem bitTest) s

end Sys2Proof.Machine
end

