-- ==== Sys2Proof/Machine/Shift.lean ====
section
/-! DEFINITION. Shift and rotate instructions (`46_shift_rotate.md` R190 to R194). -/

namespace Sys2Proof.Machine

/-- A shift or rotate of A or of a byte of memory: read once, write once, C the bit out, Z and N of the result (R190). -/
def shift (f : ShiftFn) (r : Target) (s : State) : State :=
  let m := operandRead r s
  let res := f m.2.p.c m.1
  (operandWrite r res.1 m.2).setP (m.2.p.ofShift res.2 res.1)

/-- ASL (R191): shift left; C, Z, N. -/
def execAsl (r : Operand) (s : State) : Host.Outcome State Fault Refusal :=
  runInstr "ASL" (.asl r) (plainSem (shift aslFn)) s

/-- LSR (R192): logical shift right; C, Z, N. -/
def execLsr (r : Operand) (s : State) : Host.Outcome State Fault Refusal :=
  runInstr "LSR" (.lsr r) (plainSem (shift lsrFn)) s

/-- ROL (R193): rotate left through C; C, Z, N. -/
def execRol (r : Operand) (s : State) : Host.Outcome State Fault Refusal :=
  runInstr "ROL" (.rol r) (plainSem (shift rolFn)) s

/-- ROR (R194): rotate right through C; C, Z, N. -/
def execRor (r : Operand) (s : State) : Host.Outcome State Fault Refusal :=
  runInstr "ROR" (.ror r) (plainSem (shift rorFn)) s

end Sys2Proof.Machine
end

