-- ==== Sys2Proof/Machine/Transfer.lean ====
section
/-! DEFINITION. Register transfer instructions (`42_transfer.md` R140 to R146). -/

namespace Sys2Proof.Machine

/-- A transfer into A, X or Y: the register takes `v`, Z and N from it (R140). -/
def transfer (set : State → Byte → State) (get : State → Byte) (s : State) : State :=
  (set s (get s)).setP (s.p.setZN (get s))

/-- TAX (R141): X <- A; Z, N. -/
def execTax (s : State) : Host.Outcome State Fault Refusal :=
  runInstr "TAX" .tax (plainSem fun _ s => transfer State.setX State.a s) s

/-- TAY (R142): Y <- A; Z, N. -/
def execTay (s : State) : Host.Outcome State Fault Refusal :=
  runInstr "TAY" .tay (plainSem fun _ s => transfer State.setY State.a s) s

/-- TXA (R143): A <- X; Z, N. -/
def execTxa (s : State) : Host.Outcome State Fault Refusal :=
  runInstr "TXA" .txa (plainSem fun _ s => transfer State.setA State.x s) s

/-- TYA (R144): A <- Y; Z, N. -/
def execTya (s : State) : Host.Outcome State Fault Refusal :=
  runInstr "TYA" .tya (plainSem fun _ s => transfer State.setA State.y s) s

/-- TSX (R145): X <- SP; Z, N. -/
def execTsx (s : State) : Host.Outcome State Fault Refusal :=
  runInstr "TSX" .tsx (plainSem fun _ s => transfer State.setX State.sp s) s

/-- TXS (R146): SP <- X; no flag. -/
def execTxs (s : State) : Host.Outcome State Fault Refusal :=
  runInstr "TXS" .txs (plainSem fun _ s => s.setSp s.x) s

end Sys2Proof.Machine
end

