-- ==== Sys2Proof/Machine/Dispatch.lean ====
section
/-! DEFINITION. The meaning of every instruction: one arm per constructor, each one direct call. -/

namespace Sys2Proof.Machine

/-- Runs a fetched instruction: PC is the first byte after it (`30_encoding.md` R100, R103). -/
def exec (i : Instr) (s : State) : Host.Outcome State Fault Refusal :=
  match i with
  | .lda r => Sys2Proof.Machine.execLda r s
  | .ldx r => Sys2Proof.Machine.execLdx r s
  | .ldy r => Sys2Proof.Machine.execLdy r s
  | .sta r => Sys2Proof.Machine.execSta r s
  | .stx r => Sys2Proof.Machine.execStx r s
  | .sty r => Sys2Proof.Machine.execSty r s
  | .tax => Sys2Proof.Machine.execTax s
  | .tay => Sys2Proof.Machine.execTay s
  | .txa => Sys2Proof.Machine.execTxa s
  | .tya => Sys2Proof.Machine.execTya s
  | .tsx => Sys2Proof.Machine.execTsx s
  | .txs => Sys2Proof.Machine.execTxs s
  | .inc r => Sys2Proof.Machine.execInc r s
  | .inx => Sys2Proof.Machine.execInx s
  | .iny => Sys2Proof.Machine.execIny s
  | .dec r => Sys2Proof.Machine.execDec r s
  | .dex => Sys2Proof.Machine.execDex s
  | .dey => Sys2Proof.Machine.execDey s
  | .adc r => Sys2Proof.Machine.execAdc r s
  | .sbc r => Sys2Proof.Machine.execSbc r s
  | .cmp r => Sys2Proof.Machine.execCmp r s
  | .cpx r => Sys2Proof.Machine.execCpx r s
  | .cpy r => Sys2Proof.Machine.execCpy r s
  | .and r => Sys2Proof.Machine.execAnd r s
  | .ora r => Sys2Proof.Machine.execOra r s
  | .eor r => Sys2Proof.Machine.execEor r s
  | .bit r => Sys2Proof.Machine.execBit r s
  | .asl r => Sys2Proof.Machine.execAsl r s
  | .lsr r => Sys2Proof.Machine.execLsr r s
  | .rol r => Sys2Proof.Machine.execRol r s
  | .ror r => Sys2Proof.Machine.execRor r s
  | .bcc rr => Sys2Proof.Machine.execBcc rr s
  | .bcs rr => Sys2Proof.Machine.execBcs rr s
  | .beq rr => Sys2Proof.Machine.execBeq rr s
  | .bne rr => Sys2Proof.Machine.execBne rr s
  | .bmi rr => Sys2Proof.Machine.execBmi rr s
  | .bpl rr => Sys2Proof.Machine.execBpl rr s
  | .bvc rr => Sys2Proof.Machine.execBvc rr s
  | .bvs rr => Sys2Proof.Machine.execBvs rr s
  | .jmp r => Sys2Proof.Machine.execJmp r s
  | .jsr hhll => Sys2Proof.Machine.execJsr hhll s
  | .rts => Sys2Proof.Machine.execRts s
  | .pha => Sys2Proof.Machine.execPha s
  | .pla => Sys2Proof.Machine.execPla s
  | .php => Sys2Proof.Machine.execPhp s
  | .plp => Sys2Proof.Machine.execPlp s
  | .clc => Sys2Proof.Machine.execClc s
  | .sec => Sys2Proof.Machine.execSec s
  | .cld => Sys2Proof.Machine.execCld s
  | .sed => Sys2Proof.Machine.execSed s
  | .cli => Sys2Proof.Machine.execCli s
  | .sei => Sys2Proof.Machine.execSei s
  | .clv => Sys2Proof.Machine.execClv s
  | .brk => Sys2Proof.Machine.execBrk s
  | .rti => Sys2Proof.Machine.execRti s
  | .nop => Sys2Proof.Machine.execNop s
  | .undoc opc => Sys2Proof.Machine.execUndoc opc s

end Sys2Proof.Machine
end

