-- ==== Sys2Proof/Machine/Step.lean ====
section
/-! DEFINITION. One `step()` (`30_encoding.md` R100): one NMI entry, one IRQ entry or one instruction. -/

namespace Sys2Proof.Machine

/-- `step()` (R100): an event pending at the boundary is entered; otherwise the next instruction is fetched and run. -/
def step (s : State) : Host.Outcome State Fault Refusal :=
  match s.pendingEvent with
  | some e => .next (s.takeEvent e)
  | none => exec s.fetchInstr.1 s.fetchInstr.2

/-- `s` with the instruction of an opcode-table word placed where `step` fetches next (log entry 15). -/
def State.withFetchWord (s : State) (nbits w : Nat) : State := s.placeAtPc (tableBytes nbits w)

end Sys2Proof.Machine
end

