-- ==== Sys2Proof/Machine/Driver.lean ====
section
/-! DEFINITION. The host interface (`70_reset_and_hazards.md` R338): the driving loop's calls between steps, and the
read-only snapshot (`60_exceptions.md` R294). -/

namespace Sys2Proof.Machine

/-- `request_nmi()` (R273): the latch is set; a second request before the boundary changes nothing. -/
def State.requestNmi (s : State) : State := s.setNmiPending true

/-- `set_irq_line(active)` (R274): the line takes the level. -/
def State.driveIrqLine (s : State) (active : Bool) : State := s.setIrqLine active

/-- Between calls the bus's owner stores `v` at `a`, in RAM or in a device register: another subsystem's write or DMA
(R83, R338). -/
def State.ownerWrite (s : State) (a : Addr) (v : Byte) : State := s.setBus (s.bus.ownerStore a v)

/-- Between calls a device of the bus's owner changes by itself: a status bit rises, a counter advances (R80, R338). What
changed is named by a number, whose meaning is `Config.busAnswer`'s. -/
def State.deviceChange (s : State) (what : Nat) : State := s.setBus (s.bus.deviceChange what)

/-- The moves of the driving loop on a running core (R327, R338). `power_on()` is `State.powerOn`, which makes the
first state. -/
inductive HostCall where
  | step
  | reset
  | requestNmi
  | setIrqLine (active : Bool)
  | ownerWrite (a : Addr) (v : Byte)
  | deviceChange (what : Nat)
  deriving DecidableEq, Repr

/-- One move of the driving loop; it takes place between steps (R276). -/
def hostCall (k : HostCall) (s : State) : Host.Outcome State Fault Refusal :=
  match k with
  | .step => Sys2Proof.Machine.step s
  | .reset => .next s.resetCall
  | .requestNmi => .next s.requestNmi
  | .setIrqLine active => .next (s.driveIrqLine active)
  | .ownerWrite a v => .next (s.ownerWrite a v)
  | .deviceChange what => .next (s.deviceChange what)

/-- A sequence of moves, in order (R327). -/
def hostCalls : List HostCall → State → Host.Outcome State Fault Refusal
  | [], s => .next s
  | k :: ks, s =>
    match hostCall k s with
    | .next t => hostCalls ks t
    | .fault f => .fault f
    | .refused r => .refused r

/-- The snapshot `(A, X, Y, SP, PC, P, cycles)` (R294). -/
structure Snapshot where
  a : Byte
  x : Byte
  y : Byte
  sp : Byte
  pc : Addr
  p : Byte
  cycles : Nat
  deriving DecidableEq, Repr

/-- The snapshot of a state: P is `pack_P(P.B)`, so bit 5 reads 1. It changes nothing and reads nothing of the bus. -/
def State.snapshot (s : State) : Snapshot :=
  { a := s.a, x := s.x, y := s.y, sp := s.sp, pc := s.pc, p := s.p.pack s.p.b, cycles := s.cycles }

/-- The cycles consumed between a state and a later one: what `step()` returns (R100; log entry 16). -/
def State.cyclesSince (t s : State) : Nat := t.cycles - s.cycles

end Sys2Proof.Machine
end

