-- ==== Sys2Proof/Safety.lean ====
section
/-! DEFINITION. What counts as a good state and as the end of a run, in the terms claims use. -/

namespace Sys2Proof.Machine

/-- What every reachable state satisfies: memory is in canonical form inside the 64 KiB space (`20_memory.md` R50),
and the controller is Running, as it is at every instruction boundary (`10_state.md` R42). -/
def State.inv (s : State) : Bool := Memory.wf s.bus.mem && s.ic == .running

/-- The end of a run (`70_reset_and_hazards.md` R337): the instruction at PC is a `JMP` to its own address, no NMI is
pending, and the IRQ line is inactive or masked. -/
def State.endOfRun (s : State) : Bool :=
  s.fetchInstr.1 == .jmp (.abs s.pc) && !s.nmiPending && (!s.irqLine || s.p.i)

/-- No address of the bus is outside plain memory: the bus is the reference bus `BUS_FLAT` (`20_memory.md` R88). -/
def State.flatBus (s : State) : Bool := s.bus.windows.isEmpty

/-- A step that neither faults nor refuses: every step of the core (`60_exceptions.md` R270, `30_encoding.md` R104). -/
def State.stepsOn (s : State) : Bool :=
  match step s with
  | .next _ => true
  | .fault _ => false
  | .refused _ => false

end Sys2Proof.Machine
end

