-- ==== Sys2Proof/Certificates/Slice0/Obligations.lean ====
section
/-! DEFINITION. The statements for the provers, from the spec's numbered rules. -/

open Sys2Proof Sys2Proof.Machine

/-! ### The terms the statements use -/

/-- The byte a list of cells holds at an address: the model's read of one byte. -/
def Sys2Proof.Claims.cell (m : List Host.Cell) (a : Addr) : Byte := Memory.read m a.toNat

/-- `v` is a possible answer to a read of `a` in `s`: the byte of memory where `a` is plain memory, and any byte where
`a` lies in a window of the bus (R52). -/
def Sys2Proof.Claims.Answered (s : State) (a : Addr) (v : Byte) : Prop :=
  s.bus.inWindow a = false → v = s.byteAt a

/-- Every address stored to lies in plain memory. -/
def Sys2Proof.Claims.Plain (b : Bus) (ws : List (Addr × Byte)) : Prop := ∀ w ∈ ws, b.inWindow w.1 = false

/-- The memory `m` is that of the bus `b` after the stores `ws` (address and byte, at different addresses), where these
are in plain memory: each stored byte reads back, and every other byte is unchanged. What a store into a window does is
the bus's (R51, R80), so nothing is said of it here; `Obligations.MemoryHoldsNewestWrites` says what the model does. -/
def Sys2Proof.Claims.Stored (b : Bus) (m : List Host.Cell) (ws : List (Addr × Byte)) : Prop :=
  Claims.Plain b ws →
    (∀ w ∈ ws, Claims.cell m w.1 = w.2) ∧ ∀ a, (∀ w ∈ ws, w.1 ≠ a) → Claims.cell m a = Claims.cell b.mem a

/-- The address of the stack byte `sp` designates: page 1 and `sp` (R61). -/
def Sys2Proof.Claims.slot (sp : Byte) : Addr := BitVec.ofNat 16 (256 + sp.toNat)

/-- The status byte N V 1 b D I Z C as a number (R27, R37). -/
def Sys2Proof.Claims.statusByte (p : Flags) (b : Bool) : Byte :=
  BitVec.ofNat 8 (p.n.toNat * 128 + p.v.toNat * 64 + 32 + b.toNat * 16 + p.d.toNat * 8 + p.i.toNat * 4
    + p.z.toNat * 2 + p.c.toNat)

/-- The flags a status byte gives, bit 5 ignored (R38). -/
def Sys2Proof.Claims.flagsOf (v : Byte) : Flags :=
  { c := v.getLsbD 0, z := v.getLsbD 1, i := v.getLsbD 2, d := v.getLsbD 3,
    b := v.getLsbD 4, v := v.getLsbD 6, n := v.getLsbD 7 }

/-- The flags `p` with Z and N set from `v` (R36). -/
def Sys2Proof.Claims.znFrom (p : Flags) (v : Byte) : Flags :=
  { p with z := decide (v.toNat = 0), n := decide (128 ≤ v.toNat) }

/-- The byte the operand form `r` reads in `s`, through the functions the meanings use (R78). -/
def Sys2Proof.Claims.operandValue (r : Operand) (s : State) : Byte :=
  (operandRead (resolve r s).1 (resolve r s).2).1

/-- The effective address of the operand form `r` in `s`, through the function the meanings use; none where the form
designates no byte of memory (R64). -/
def Sys2Proof.Claims.dataAddr (r : Operand) (s : State) : Option Addr :=
  match (resolve r s).1 with
  | .addr ea _ => some ea
  | .none | .acc | .imm _ | .rel _ => none

/-- The cost of an instruction that is no branch: its row's base, and one more where the row takes the page-crossing
penalty and the form crossed a page (R101). -/
def Sys2Proof.Claims.formCost (i : Instr) (s : State) : Nat :=
  match dispatch i with
  | some e => e.base + (if e.pen && (resolve i.operand s).1.crossed then 1 else 0)
  | none => 0

/-- The branch's condition holds; false for any other instruction (R201 to R208). -/
def Sys2Proof.Claims.branchTaken (i : Instr) (s : State) : Bool :=
  match i with
  | .bcc _ => !s.p.c
  | .bcs _ => s.p.c
  | .beq _ => s.p.z
  | .bne _ => !s.p.z
  | .bmi _ => s.p.n
  | .bpl _ => !s.p.n
  | .bvc _ => !s.p.v
  | .bvs _ => s.p.v
  | .lda _ | .ldx _ | .ldy _ | .sta _ | .stx _ | .sty _ | .tax | .tay | .txa | .tya | .tsx | .txs | .inc _
  | .inx | .iny | .dec _ | .dex | .dey | .adc _ | .sbc _ | .cmp _ | .cpx _ | .cpy _ | .and _ | .ora _
  | .eor _ | .bit _ | .asl _ | .lsr _ | .rol _ | .ror _ | .jmp _ | .jsr _ | .rts | .pha | .pla | .php
  | .plp | .clc | .sec | .cld | .sed | .cli | .sei | .clv | .brk | .rti | .nop | .undoc _ => false

/-- The address a branch with offset `rr` goes to when the next instruction is at `pc` (R77). -/
def Sys2Proof.Claims.branchTarget (pc : Addr) (rr : Byte) : Addr := BitVec.ofInt 16 (pc.toNat + rr.toInt)

/-- The row of a form: opcode, base cost, page-crossing penalty. -/
def Sys2Proof.Claims.HasRow (i : Instr) (opcode : Byte) (base : Nat) (pen : Bool) : Prop :=
  dispatch i = some { opcode := opcode, base := base, pen := pen }

/-- The eight rows of an instruction that reads its operand in the ALU forms, by opcode; their costs are the same for
every such instruction (`41_load_store.md`, `44_arithmetic_compare.md`, `45_logic.md`). -/
def Sys2Proof.Claims.AluRows (mk : Operand → Instr) (imm zp zpx abs abx aby izx izy : Byte) : Prop :=
  ∀ (n : Byte) (w : Addr),
    Claims.HasRow (mk (.imm n)) imm 2 false ∧ Claims.HasRow (mk (.zp n)) zp 3 false ∧
    Claims.HasRow (mk (.zpx n)) zpx 4 false ∧ Claims.HasRow (mk (.abs w)) abs 4 false ∧
    Claims.HasRow (mk (.abx w)) abx 4 true ∧ Claims.HasRow (mk (.aby w)) aby 4 true ∧
    Claims.HasRow (mk (.izx n)) izx 6 false ∧ Claims.HasRow (mk (.izy n)) izy 5 true

/-- The four rows of a read-modify-write instruction on memory, by opcode, with their fixed costs (R102). -/
def Sys2Proof.Claims.ModifyRows (mk : Operand → Instr) (zp zpx abs abx : Byte) : Prop :=
  ∀ (n : Byte) (w : Addr),
    Claims.HasRow (mk (.zp n)) zp 5 false ∧ Claims.HasRow (mk (.zpx n)) zpx 6 false ∧
    Claims.HasRow (mk (.abs w)) abs 6 false ∧ Claims.HasRow (mk (.abx w)) abx 7 false

/-- The history after the operand form `r` was read in `s`: the pointer reads of its mode, then one read of the
effective address where the form designates a byte of memory (R55, R78, R79). -/
def Sys2Proof.Claims.logAfterRead (r : Operand) (s : State) : List BusEvent :=
  match Claims.dataAddr r s with
  | some ea => .read ea (Claims.operandValue r s) :: (resolve r s).2.bus.log
  | none => s.bus.log

/-- The instruction always completes, and leaves `s` but for A, X, Y and the flags, which become those of `t`, for the
cycles, and for the history, which has the one read of its operand; memory, the stack pointer, the program counter,
the interrupt inputs and the controller are unchanged. -/
def Sys2Proof.Claims.ReadsInto (i : Instr) (s t : State) : Prop :=
  exec i s = .next { s with
    a := t.a, x := t.x, y := t.y, p := t.p,
    cycles := s.cycles + Claims.formCost i s,
    bus := { s.bus with log := Claims.logAfterRead i.operand s } }

/-- The bytes an entry pushes: the return address, high byte first, and the status byte (R280). -/
def Sys2Proof.Claims.frame (s : State) (ret : Addr) (b : Bool) : List (Addr × Byte) :=
  [(Claims.slot s.sp, hiByte ret), (Claims.slot (s.sp - 1), loByte ret),
   (Claims.slot (s.sp - 2), Claims.statusByte s.p b)]

/-- The state `t` is `s` after an event was entered with return address `ret`, vector `vec` and break bit `b`, in
`cost` cycles: the pushes, the vector fetch, and nothing else (R280 to R283). Where the stack bytes are plain memory the
pushed bytes are there, every other byte is unchanged, and the vector read is the one that stood there before. -/
def Sys2Proof.Claims.Entered (s t : State) (ret vec : Addr) (b : Bool) (cost : Nat) : Prop :=
  ∃ mem lo hi,
    t = { s with
      sp := s.sp - 3, pc := ofBytes hi lo, p := { s.p with i := true }, ic := .running, cycles := s.cycles + cost,
      bus := { s.bus with
        mem := mem,
        log := .read (vec + 1) hi :: .read vec lo
          :: .write (Claims.slot (s.sp - 2)) (Claims.statusByte s.p b)
          :: .write (Claims.slot (s.sp - 1)) (loByte ret)
          :: .write (Claims.slot s.sp) (hiByte ret) :: s.bus.log } } ∧
    Claims.Stored s.bus mem (Claims.frame s ret b) ∧
    (Claims.Plain s.bus (Claims.frame s ret b) → Claims.Answered s vec lo ∧ Claims.Answered s (vec + 1) hi)

/-- The whole stack page is plain memory: no stack byte lies in a window. -/
def Sys2Proof.Claims.PlainStack (s : State) : Prop := ∀ sp : Byte, s.bus.inWindow (Claims.slot sp) = false

/-- Whether an event of the history is an access of the core, and if so whether a write. -/
def Sys2Proof.Claims.isWrite : BusEvent → Option Bool
  | .read _ _ => some false
  | .write _ _ => some true
  | .ownerStore _ _ | .deviceChange _ => none

/-- The byte at `a` after the events `made` (newest first) when it was `old` before them: the newest byte the core wrote
there, else `old`. -/
def Sys2Proof.Claims.afterWrites (a : Addr) (old : Byte) : List BusEvent → Byte
  | [] => old
  | .write c v :: made => if c = a then v else Claims.afterWrites a old made
  | .read _ _ :: made | .ownerStore _ _ :: made | .deviceChange _ :: made => Claims.afterWrites a old made

/-- What the model does to memory and answers from it, along the events `made` (newest first) that led from `s` to `t`: a
plain byte holds the newest byte written to it, a read of a plain address answers the newest byte written before it, and
no cell behind a window changes. -/
def Sys2Proof.Claims.MemoryFollows (s t : State) (made : List BusEvent) : Prop :=
  t.bus.log = made ++ s.bus.log ∧ t.bus.windows = s.bus.windows ∧
  ∀ a,
    Claims.cell t.bus.mem a
      = (if s.bus.inWindow a then s.byteAt a else Claims.afterWrites a (s.byteAt a) made) ∧
    ∀ newer older v, made = newer ++ .read a v :: older → s.bus.inWindow a = false →
      v = Claims.afterWrites a (s.byteAt a) older

/-- The pointer reads of a mode (R74 to R76). -/
def Sys2Proof.Claims.pointerReads : Operand → Nat
  | .ind _ | .izx _ | .izy _ => 2
  | .imp | .acc | .imm _ | .zp _ | .zpx _ | .zpy _ | .abs _ | .abx _ | .aby _ | .rel _ => 0

/-- The operand form designates a byte of memory. -/
def Sys2Proof.Claims.onMemory : Operand → Bool
  | .imp | .acc | .imm _ | .rel _ => false
  | .zp _ | .zpx _ | .zpy _ | .abs _ | .abx _ | .aby _ | .ind _ | .izx _ | .izy _ => true

/-- The data accesses of an instruction, oldest first, true for a write (R79). -/
def Sys2Proof.Claims.dataAccesses : Instr → List Bool
  | .lda r | .ldx r | .ldy r | .adc r | .sbc r | .cmp r | .cpx r | .cpy r | .and r | .ora r | .eor r | .bit r =>
    if Claims.onMemory r then [false] else []
  | .sta _ | .stx _ | .sty _ | .pha | .php => [true]
  | .inc r | .dec r | .asl r | .lsr r | .rol r | .ror r => if Claims.onMemory r then [false, true] else []
  | .pla | .plp => [false]
  | .jsr _ => [true, true]
  | .rts => [false, false]
  | .rti => [false, false, false]
  | .brk => [true, true, true, false, false]
  | .tax | .tay | .txa | .tya | .tsx | .txs | .inx | .iny | .dex | .dey | .bcc _ | .bcs _ | .beq _ | .bne _
  | .bmi _ | .bpl _ | .bvc _ | .bvs _ | .jmp _ | .clc | .sec | .cld | .sed | .cli | .sei | .clv | .nop
  | .undoc _ => []

/-- The instructions that write A (R21). -/
def Sys2Proof.Claims.writesA : Instr → Bool
  | .lda _ | .adc _ | .sbc _ | .and _ | .ora _ | .eor _ | .txa | .tya | .pla => true
  | .asl r | .lsr r | .rol r | .ror r => r == .acc
  | .ldx _ | .ldy _ | .sta _ | .stx _ | .sty _ | .tax | .tay | .tsx | .txs | .inc _ | .inx | .iny | .dec _
  | .dex | .dey | .cmp _ | .cpx _ | .cpy _ | .bit _ | .bcc _ | .bcs _ | .beq _ | .bne _ | .bmi _ | .bpl _
  | .bvc _ | .bvs _ | .jmp _ | .jsr _ | .rts | .pha | .php | .plp | .clc | .sec | .cld | .sed | .cli | .sei
  | .clv | .brk | .rti | .nop | .undoc _ => false

/-- The instructions that write X (R22). -/
def Sys2Proof.Claims.writesX : Instr → Bool
  | .ldx _ | .inx | .dex | .tax | .tsx => true
  | .lda _ | .ldy _ | .sta _ | .stx _ | .sty _ | .tay | .txa | .tya | .txs | .inc _ | .iny | .dec _ | .dey
  | .adc _ | .sbc _ | .cmp _ | .cpx _ | .cpy _ | .and _ | .ora _ | .eor _ | .bit _ | .asl _ | .lsr _
  | .rol _ | .ror _ | .bcc _ | .bcs _ | .beq _ | .bne _ | .bmi _ | .bpl _ | .bvc _ | .bvs _ | .jmp _
  | .jsr _ | .rts | .pha | .pla | .php | .plp | .clc | .sec | .cld | .sed | .cli | .sei | .clv | .brk
  | .rti | .nop | .undoc _ => false

/-- The instructions that write Y (R23). -/
def Sys2Proof.Claims.writesY : Instr → Bool
  | .ldy _ | .iny | .dey | .tay => true
  | .lda _ | .ldx _ | .sta _ | .stx _ | .sty _ | .tax | .txa | .tya | .tsx | .txs | .inc _ | .inx | .dec _
  | .dex | .adc _ | .sbc _ | .cmp _ | .cpx _ | .cpy _ | .and _ | .ora _ | .eor _ | .bit _ | .asl _ | .lsr _
  | .rol _ | .ror _ | .bcc _ | .bcs _ | .beq _ | .bne _ | .bmi _ | .bpl _ | .bvc _ | .bvs _ | .jmp _
  | .jsr _ | .rts | .pha | .pla | .php | .plp | .clc | .sec | .cld | .sed | .cli | .sei | .clv | .brk
  | .rti | .nop | .undoc _ => false

/-- The instructions that write SP: TXS and every push and pull (R24). -/
def Sys2Proof.Claims.writesSp : Instr → Bool
  | .txs | .pha | .php | .pla | .plp | .jsr _ | .rts | .rti | .brk => true
  | .lda _ | .ldx _ | .ldy _ | .sta _ | .stx _ | .sty _ | .tax | .tay | .txa | .tya | .tsx | .inc _ | .inx
  | .iny | .dec _ | .dex | .dey | .adc _ | .sbc _ | .cmp _ | .cpx _ | .cpy _ | .and _ | .ora _ | .eor _
  | .bit _ | .asl _ | .lsr _ | .rol _ | .ror _ | .bcc _ | .bcs _ | .beq _ | .bne _ | .bmi _ | .bpl _
  | .bvc _ | .bvs _ | .jmp _ | .clc | .sec | .cld | .sed | .cli | .sei | .clv | .nop | .undoc _ => false

/-- The instructions that write C (R28). -/
def Sys2Proof.Claims.writesC : Instr → Bool
  | .adc _ | .sbc _ | .cmp _ | .cpx _ | .cpy _ | .asl _ | .lsr _ | .rol _ | .ror _ | .clc | .sec | .plp | .rti => true
  | .lda _ | .ldx _ | .ldy _ | .sta _ | .stx _ | .sty _ | .tax | .tay | .txa | .tya | .tsx | .txs | .inc _
  | .inx | .iny | .dec _ | .dex | .dey | .and _ | .ora _ | .eor _ | .bit _ | .bcc _ | .bcs _ | .beq _
  | .bne _ | .bmi _ | .bpl _ | .bvc _ | .bvs _ | .jmp _ | .jsr _ | .rts | .pha | .pla | .php | .cld | .sed
  | .cli | .sei | .clv | .brk | .nop | .undoc _ => false

/-- The instructions that write Z, and, the same ones, N (R29, R34). -/
def Sys2Proof.Claims.writesZN : Instr → Bool
  | .lda _ | .ldx _ | .ldy _ | .tax | .tay | .txa | .tya | .tsx | .pla | .inc _ | .inx | .iny | .dec _ | .dex | .dey
  | .adc _ | .sbc _ | .and _ | .ora _ | .eor _ | .asl _ | .lsr _ | .rol _ | .ror _ | .cmp _ | .cpx _ | .cpy _
  | .bit _ | .plp | .rti => true
  | .sta _ | .stx _ | .sty _ | .txs | .bcc _ | .bcs _ | .beq _ | .bne _ | .bmi _ | .bpl _ | .bvc _ | .bvs _
  | .jmp _ | .jsr _ | .rts | .pha | .php | .clc | .sec | .cld | .sed | .cli | .sei | .clv | .brk | .nop
  | .undoc _ => false

/-- The instructions that write I (R30). -/
def Sys2Proof.Claims.writesI : Instr → Bool
  | .sei | .cli | .brk | .plp | .rti => true
  | .lda _ | .ldx _ | .ldy _ | .sta _ | .stx _ | .sty _ | .tax | .tay | .txa | .tya | .tsx | .txs | .inc _
  | .inx | .iny | .dec _ | .dex | .dey | .adc _ | .sbc _ | .cmp _ | .cpx _ | .cpy _ | .and _ | .ora _
  | .eor _ | .bit _ | .asl _ | .lsr _ | .rol _ | .ror _ | .bcc _ | .bcs _ | .beq _ | .bne _ | .bmi _
  | .bpl _ | .bvc _ | .bvs _ | .jmp _ | .jsr _ | .rts | .pha | .pla | .php | .clc | .sec | .cld | .sed
  | .clv | .nop | .undoc _ => false

/-- The instructions that write D (R31). -/
def Sys2Proof.Claims.writesD : Instr → Bool
  | .sed | .cld | .plp | .rti => true
  | .lda _ | .ldx _ | .ldy _ | .sta _ | .stx _ | .sty _ | .tax | .tay | .txa | .tya | .tsx | .txs | .inc _
  | .inx | .iny | .dec _ | .dex | .dey | .adc _ | .sbc _ | .cmp _ | .cpx _ | .cpy _ | .and _ | .ora _
  | .eor _ | .bit _ | .asl _ | .lsr _ | .rol _ | .ror _ | .bcc _ | .bcs _ | .beq _ | .bne _ | .bmi _
  | .bpl _ | .bvc _ | .bvs _ | .jmp _ | .jsr _ | .rts | .pha | .pla | .php | .clc | .sec | .cli | .sei
  | .clv | .brk | .nop | .undoc _ => false

/-- The instructions that write B (R32). -/
def Sys2Proof.Claims.writesB : Instr → Bool
  | .plp | .rti => true
  | .lda _ | .ldx _ | .ldy _ | .sta _ | .stx _ | .sty _ | .tax | .tay | .txa | .tya | .tsx | .txs | .inc _
  | .inx | .iny | .dec _ | .dex | .dey | .adc _ | .sbc _ | .cmp _ | .cpx _ | .cpy _ | .and _ | .ora _
  | .eor _ | .bit _ | .asl _ | .lsr _ | .rol _ | .ror _ | .bcc _ | .bcs _ | .beq _ | .bne _ | .bmi _
  | .bpl _ | .bvc _ | .bvs _ | .jmp _ | .jsr _ | .rts | .pha | .pla | .php | .clc | .sec | .cld | .sed
  | .cli | .sei | .clv | .brk | .nop | .undoc _ => false

/-- The instructions that write V (R33). -/
def Sys2Proof.Claims.writesV : Instr → Bool
  | .adc _ | .sbc _ | .bit _ | .clv | .plp | .rti => true
  | .lda _ | .ldx _ | .ldy _ | .sta _ | .stx _ | .sty _ | .tax | .tay | .txa | .tya | .tsx | .txs | .inc _
  | .inx | .iny | .dec _ | .dex | .dey | .cmp _ | .cpx _ | .cpy _ | .and _ | .ora _ | .eor _ | .asl _
  | .lsr _ | .rol _ | .ror _ | .bcc _ | .bcs _ | .beq _ | .bne _ | .bmi _ | .bpl _ | .bvc _ | .bvs _
  | .jmp _ | .jsr _ | .rts | .pha | .pla | .php | .clc | .sec | .cld | .sed | .cli | .sei | .brk | .nop
  | .undoc _ => false

/-- The instructions that write PC (R103): the jumps, the returns, BRK, and the branches. -/
def Sys2Proof.Claims.writesPc : Instr → Bool
  | .jmp _ | .jsr _ | .rts | .rti | .brk => true
  | .bcc _ | .bcs _ | .beq _ | .bne _ | .bmi _ | .bpl _ | .bvc _ | .bvs _ => true
  | .lda _ | .ldx _ | .ldy _ | .sta _ | .stx _ | .sty _ | .tax | .tay | .txa | .tya | .tsx | .txs | .inc _
  | .inx | .iny | .dec _ | .dex | .dey | .adc _ | .sbc _ | .cmp _ | .cpx _ | .cpy _ | .and _ | .ora _
  | .eor _ | .bit _ | .asl _ | .lsr _ | .rol _ | .ror _ | .pha | .pla | .php | .plp | .clc | .sec | .cld
  | .sed | .cli | .sei | .clv | .nop | .undoc _ => false

/-- The forms that store to memory (R79). -/
def Sys2Proof.Claims.writesMemory : Instr → Bool
  | .sta _ | .stx _ | .sty _ | .inc _ | .dec _ | .pha | .php | .jsr _ | .brk => true
  | .asl r | .lsr r | .rol r | .ror r => r != .acc
  | .lda _ | .ldx _ | .ldy _ | .tax | .tay | .txa | .tya | .tsx | .txs | .inx | .iny | .dex | .dey | .adc _
  | .sbc _ | .cmp _ | .cpx _ | .cpy _ | .and _ | .ora _ | .eor _ | .bit _ | .bcc _ | .bcs _ | .beq _
  | .bne _ | .bmi _ | .bpl _ | .bvc _ | .bvs _ | .jmp _ | .rts | .pla | .plp | .clc | .sec | .cld | .sed
  | .cli | .sei | .clv | .rti | .nop | .undoc _ => false

/-- `s` with the decimal flag `d`. -/
def Sys2Proof.Claims.withD (d : Bool) (s : State) : State := { s with p := { s.p with d := d } }

/-- `s` with the break flag `b`. -/
def Sys2Proof.Claims.withB (b : Bool) (s : State) : State := { s with p := { s.p with b := b } }

/-- The outcome with its next state, if it has one, changed by `f`. -/
def Sys2Proof.Claims.mapNext (f : State → State) :
    Host.Outcome State Fault Refusal → Host.Outcome State Fault Refusal
  | .next t => .next (f t)
  | .fault e => .fault e
  | .refused e => .refused e

/-- The meanings of a list of instructions run one after the other. -/
def Sys2Proof.Claims.execAll : List Instr → State → Host.Outcome State Fault Refusal
  | [], s => .next s
  | i :: is, s =>
    match exec i s with
    | .next t => Claims.execAll is t
    | .fault e => .fault e
    | .refused e => .refused e

/-- The reads of `n` bytes from `a` on in plain memory, newest first: the accesses of a fetch (R55). -/
def Sys2Proof.Claims.fetchReads (s : State) (n : Nat) : List BusEvent :=
  ((List.range n).map fun k => BusEvent.read (s.pc + BitVec.ofNat 16 k) (s.byteAt (s.pc + BitVec.ofNat 16 k))).reverse

/-- The reads of the bytes `bs` from `a` on, newest first. -/
def Sys2Proof.Claims.readsFrom (a : Addr) (bs : List Byte) : List BusEvent :=
  (bs.zipIdx.map fun b => BusEvent.read (a + BitVec.ofNat 16 b.2) b.1).reverse

/-- The states `t` and `u` come of one instruction or entry run on `s` and on `s` with the decimal flag `d`, and differ
in that flag and in the status byte pushed to `slotAt` with break bit `b`, in memory and in the history; a vector read
after that push may answer otherwise, unless `plain` says that it reads plain memory. -/
def Sys2Proof.Claims.DifferInPushedStatus (s t u : State) (d b : Bool) (slotAt : Addr) (plain : Prop) : Prop :=
  ∃ below above above',
    t.bus.log = above ++ .write slotAt (Claims.statusByte s.p b) :: below ∧
    u = Claims.withD d { t with
      pc := u.pc,
      bus := { t.bus with
        mem := u.bus.mem, log := above' ++ .write slotAt (Claims.statusByte { s.p with d := d } b) :: below } } ∧
    (∀ a, a ≠ slotAt → Claims.cell u.bus.mem a = Claims.cell t.bus.mem a) ∧
    (plain → u.pc = t.pc ∧ above' = above)

/-! ### Encoding -/

/-- Decoding the bytes of a well-formed instruction gives it back, with every operand at every value, whatever bytes
follow (R90, R91, R93, R99). -/
def Obligations.DecodeInvertsEncode : Prop :=
  ∀ (i : Instr) (rest : List Byte), i.wf = true → decode (encode i ++ rest) = .instr i rest

/-- What the decoder gives is well formed and encodes to the bytes it read, so no two instructions share an encoding
and no bit is dropped (R90, R91, R99). -/
def Obligations.EncodeInvertsDecode : Prop :=
  ∀ (bs rest : List Byte) (i : Instr), decode bs = .instr i rest → i.wf = true ∧ encode i ++ rest = bs

/-- Every opcode value is an instruction: a byte list that begins with it decodes as soon as its operand bytes are
there, and is refused, by that opcode, only where they are missing (R99, R104; the refusal is the model's: a list of
bytes may be too short, the bus never is). -/
def Obligations.DecodeRefusesOnlyMissingBytes : Prop :=
  ∀ (opc : Byte) (rest : List Byte),
    (operandBytesOf opc ≤ rest.length →
      ∃ i, decode (opc :: rest) = .instr i (rest.drop (operandBytesOf opc)) ∧ i.wf = true) ∧
    (rest.length < operandBytesOf opc → decode (opc :: rest) = .rejected (.truncated opc))

/-- Eleven words, one of every family, written out from the spec's encodings, decode to the instructions they stand
for (R93). -/
def Obligations.HandWrittenWordsDecode : Prop :=
  decode [0xBD, 0xF0, 0x10] = .instr (.lda (.abx 0x10F0)) [] ∧
  decode [0x96, 0xFE] = .instr (.stx (.zpy 0xFE)) [] ∧
  decode [0xBA] = .instr .tsx [] ∧
  decode [0xDE, 0xFF, 0x04] = .instr (.dec (.abx 0x04FF)) [] ∧
  decode [0x71, 0x20] = .instr (.adc (.izy 0x20)) [] ∧
  decode [0x2C, 0x00, 0x02] = .instr (.bit (.abs 0x0200)) [] ∧
  decode [0x6A] = .instr (.ror .acc) [] ∧
  decode [0x70, 0xFE] = .instr (.bvs 0xFE) [] ∧
  decode [0x6C, 0xFF, 0x02] = .instr (.jmp (.ind 0x02FF)) [] ∧
  decode [0x40] = .instr .rti [] ∧
  decode [0x0C, 0x34, 0x12] = .instr (.undoc 0x0C) [0x34, 0x12]

/-- An opcode is undocumented exactly when the decoder gives the fallback for it, whatever follows; the fallback takes
one byte, and there are 105 such values, no two of them equal (R95, R250). -/
def Obligations.UndocumentedOpcodesAreOneByte : Prop :=
  undocumentedOpcodes.length = 105 ∧ undocumentedOpcodes.Nodup ∧
  ∀ (opc : Byte) (rest : List Byte),
    opc ∈ undocumentedOpcodes ↔ decode (opc :: rest) = .instr (.undoc opc) rest

/-- The opcode alone decides the row, and so instruction, mode, length and cost: two readings of one opcode with
different operand bytes have the same row and the same length, 1, 2 or 3 (R90, R96, R99). -/
def Obligations.OpcodeAloneDecidesRow : Prop :=
  ∀ (opc b c : Byte) (w v : Addr),
    dispatch (decodeOpcode opc b w) = dispatch (decodeOpcode opc c v) ∧
    (decodeOpcode opc b w).size = (decodeOpcode opc c v).size ∧
    (decodeOpcode opc b w).size = 1 + operandBytesOf opc ∧ operandBytesOf opc ≤ 2

/-! ### The step -/

/-- At a boundary where no event is taken, if the bytes at PC are plain memory and decode to an instruction `i`, which
is then well formed, the step is `exec i` on the state with PC moved past the instruction and its fetch in the history;
and wherever the bytes come from, a window too, the step is `exec` of the well-formed instruction that the bytes answered
decode to, each read once, from PC on in order, on the state with PC moved past them (R100, R103, R55). -/
def Obligations.StepRunsDecodedInstruction : Prop :=
  (∀ (s : State) (i : Instr) (rest : List Byte),
    s.pendingEvent = none →
    decode [s.byteAt s.pc, s.byteAt (s.pc + 1), s.byteAt (s.pc + 2)] = .instr i rest →
    (∀ k < i.size, s.bus.inWindow (s.pc + BitVec.ofNat 16 k) = false) →
    step s = exec i { s with
      pc := s.pc + BitVec.ofNat 16 i.size,
      bus := { s.bus with log := Claims.fetchReads s i.size ++ s.bus.log } }) ∧
  (∀ s : State, s.pendingEvent = none →
    ∃ i bytes, decode bytes = .instr i [] ∧ i.wf = true ∧ bytes.length = i.size ∧
      (∀ k v, bytes[k]? = some v → Claims.Answered s (s.pc + BitVec.ofNat 16 k) v) ∧
      step s = exec i { s with
        pc := s.pc + BitVec.ofNat 16 i.size,
        bus := { s.bus with log := Claims.readsFrom s.pc bytes ++ s.bus.log } })

/-- Every well-formed instruction completes in every state, every step gives a next state, and no step faults or
refuses, nor does any sequence of the driving loop's moves; a term of `Instr` with no encoding is refused by name (R104,
R270, R327, R337, R338; the refusal is the model's, log entry 8). -/
def Obligations.EveryStepGivesNextState : Prop :=
  (∀ s : State, ∃ t, step s = .next t) ∧
  (∀ (i : Instr) (s : State), i.wf = true → ∃ t, exec i s = .next t) ∧
  (∀ (ks : List HostCall) (s : State), ∃ t, hostCalls ks s = .next t ∧ (s.inv = true → t.inv = true)) ∧
  (∀ (i : Instr) (s : State), i.wf = false → ∃ m, exec i s = .refused (.noSuchForm m))

/-- Every step keeps memory canonical and inside the 64 KiB space and leaves the controller Running (R42, R50, R272). -/
def Obligations.StepKeepsInvariant : Prop :=
  ∀ s t : State, s.inv = true → step s = .next t → t.inv = true

/-- The state after power-on with any draws on any bus whose memory is canonical satisfies the invariant, and so does
`State.reset`, which is power-on with the draw of log entries 6 and 7 on the empty reference bus of log entries 1, 2
and 4 (R322, R324). -/
def Obligations.ResetMeetsInvariant : Prop :=
  (∀ (d : Config.PowerOn) (b : Bus), Memory.wf b.mem = true → (State.powerOn d b).inv = true) ∧
  State.reset = State.powerOn Config.testLogDraw { mem := [], windows := [], log := [] } ∧
  State.reset.inv = true

/-- Every move of the driving loop has a next state and keeps the invariant, in every state that satisfies it: a step, a
reset, an NMI request, a change of the IRQ line, a store by the bus's owner, a change inside a device (R320, R338; the
moves are those of log entry 11). -/
def Obligations.HostMovesKeepInvariant : Prop :=
  ∀ (k : HostCall) (s : State), s.inv = true → ∃ t, hostCall k s = .next t ∧ t.inv = true

/-! ### Cycles and bus accesses -/

/-- A step consumes 2 to 7 cycles, or `UNDOC_CYCLES`, so the counter never decreases (R43, R338). -/
def Obligations.StepConsumesTwoToSevenCycles : Prop :=
  ∀ s t : State, step s = .next t →
    s.cycles ≤ t.cycles ∧
    ((2 ≤ t.cyclesSince s ∧ t.cyclesSince s ≤ 7) ∨ t.cyclesSince s = Config.undocCycles)

/-- The cost of an instruction: the base of its row, one more for a page crossing where the row takes the penalty, and
for a taken branch one more, or two where the target lies in another page than the next instruction (R101, R200). -/
def Obligations.CycleAccounting : Prop :=
  ∀ (i : Instr) (e : Row) (s : State), dispatch i = some e →
    ∃ t, exec i s = .next t ∧
      t.cycles = s.cycles + e.base
        + (if e.pen = true ∧ (resolve i.operand s).1.crossed = true then 1 else 0)
        + (if Claims.branchTaken i s = true then
             (if s.pc.toNat / 256 = t.pc.toNat / 256 then 1 else 2) else 0)

/-- The page-crossing penalty belongs to the 23 opcodes of R102 and no other; the indexed stores and read-modify-write
rows have the fixed costs R102 gives. -/
def Obligations.PagePenaltySet : Prop :=
  (∀ (i : Instr) (e : Row), dispatch i = some e →
    (e.pen = true ↔ e.opcode ∈ ([0x7D, 0x79, 0x71, 0x3D, 0x39, 0x31, 0xDD, 0xD9, 0xD1, 0x5D, 0x59, 0x51,
      0xBD, 0xB9, 0xB1, 0x1D, 0x19, 0x11, 0xFD, 0xF9, 0xF1, 0xBE, 0xBC] : List Byte))) ∧
  ∀ (w : Addr) (n : Byte),
    Claims.HasRow (.sta (.abx w)) 0x9D 5 false ∧ Claims.HasRow (.sta (.aby w)) 0x99 5 false ∧
    Claims.HasRow (.sta (.izy n)) 0x91 6 false ∧
    ∀ i ∈ [Instr.inc (.abx w), .dec (.abx w), .asl (.abx w), .lsr (.abx w), .rol (.abx w), .ror (.abx w)],
      ∃ opc, Claims.HasRow i opc 7 false

/-- The accesses an instruction makes after its fetch are the pointer reads of its mode, then the data reads and writes
of R79, in that order, and no other (R55, R79). -/
def Obligations.AccessesAreExactlyThese : Prop :=
  ∀ (i : Instr) (s : State), i.wf = true →
    ∃ t made, exec i s = .next t ∧ t.bus.log = made ++ s.bus.log ∧ t.bus.windows = s.bus.windows ∧
      made.reverse.map Claims.isWrite
        = (List.replicate (Claims.pointerReads i.operand) false ++ Claims.dataAccesses i).map some

/-- The thirteen modes: what each resolves to, and that it changes nothing but the history, where IND, IZX and IZY
read their two pointer bytes, the second one in the pointer's page or in page 0 (R64 to R77). -/
def Obligations.ResolverModes : Prop :=
  ∀ (s : State) (n : Byte) (w : Addr),
    resolve .imp s = (.none, s) ∧ resolve .acc s = (.acc, s) ∧ resolve (.imm n) s = (.imm n, s) ∧
    resolve (.zp n) s = (.addr (BitVec.ofNat 16 n.toNat) false, s) ∧
    resolve (.zpx n) s = (.addr (BitVec.ofNat 16 ((n.toNat + s.x.toNat) % 256)) false, s) ∧
    resolve (.zpy n) s = (.addr (BitVec.ofNat 16 ((n.toNat + s.y.toNat) % 256)) false, s) ∧
    resolve (.abs w) s = (.addr w false, s) ∧
    (let ea := BitVec.ofNat 16 (w.toNat + s.x.toNat)
     resolve (.abx w) s = (.addr ea (decide (w.toNat / 256 ≠ ea.toNat / 256)), s)) ∧
    (let ea := BitVec.ofNat 16 (w.toNat + s.y.toNat)
     resolve (.aby w) s = (.addr ea (decide (w.toNat / 256 ≠ ea.toNat / 256)), s)) ∧
    (let second := BitVec.ofNat 16 (w.toNat / 256 * 256 + (w.toNat % 256 + 1) % 256)
     ∃ lo hi, Claims.Answered s w lo ∧ Claims.Answered s second hi ∧
       resolve (.ind w) s = (.addr (ofBytes hi lo) false,
         { s with bus := { s.bus with log := .read second hi :: .read w lo :: s.bus.log } })) ∧
    (let p := n.toNat + s.x.toNat
     let first := BitVec.ofNat 16 (p % 256)
     let second := BitVec.ofNat 16 ((p + 1) % 256)
     ∃ lo hi, Claims.Answered s first lo ∧ Claims.Answered s second hi ∧
       resolve (.izx n) s = (.addr (ofBytes hi lo) false,
         { s with bus := { s.bus with log := .read second hi :: .read first lo :: s.bus.log } })) ∧
    (let first := BitVec.ofNat 16 n.toNat
     let second := BitVec.ofNat 16 ((n.toNat + 1) % 256)
     ∃ lo hi, Claims.Answered s first lo ∧ Claims.Answered s second hi ∧
       (let ea := BitVec.ofNat 16 (hi.toNat * 256 + lo.toNat + s.y.toNat)
        resolve (.izy n) s = (.addr ea (decide (hi.toNat ≠ ea.toNat / 256)),
          { s with bus := { s.bus with log := .read second hi :: .read first lo :: s.bus.log } }))) ∧
    resolve (.rel n) s = (.rel (Claims.branchTarget s.pc n), s)

/-- Reading an operand gives the immediate byte, A, or the byte one read of the effective address answers; writing one
sets A, or makes one write of the effective address; nothing else changes, and in plain memory the byte written is there
and every other byte stays (R78). -/
def Obligations.OperandAccessByMode : Prop :=
  ∀ (s : State) (v : Byte) (ea : Addr) (crossed : Bool),
    operandRead (.imm v) s = (v, s) ∧ operandRead .acc s = (s.a, s) ∧
    operandWrite .acc v s = { s with a := v } ∧
    (∃ m, Claims.Answered s ea m ∧
      operandRead (.addr ea crossed) s = (m, { s with bus := { s.bus with log := .read ea m :: s.bus.log } })) ∧
    (∃ mem, Claims.Stored s.bus mem [(ea, v)] ∧
      operandWrite (.addr ea crossed) v s = { s with
        bus := { s.bus with mem := mem, log := .write ea v :: s.bus.log } })

/-! ### Load, store, transfer, increment, decrement -/

/-- LDA, LDX, LDY in every form: the register takes the operand, Z and N come from it, nothing else changes, and the
instruction completes; with the opcodes and costs of each row (R121, R122, R123). -/
def Obligations.LoadsTakeOperand : Prop :=
  Claims.AluRows .lda 0xA9 0xA5 0xB5 0xAD 0xBD 0xB9 0xA1 0xB1 ∧
  (∀ (n : Byte) (w : Addr),
    Claims.HasRow (.ldx (.imm n)) 0xA2 2 false ∧ Claims.HasRow (.ldx (.zp n)) 0xA6 3 false ∧
    Claims.HasRow (.ldx (.zpy n)) 0xB6 4 false ∧ Claims.HasRow (.ldx (.abs w)) 0xAE 4 false ∧
    Claims.HasRow (.ldx (.aby w)) 0xBE 4 true ∧
    Claims.HasRow (.ldy (.imm n)) 0xA0 2 false ∧ Claims.HasRow (.ldy (.zp n)) 0xA4 3 false ∧
    Claims.HasRow (.ldy (.zpx n)) 0xB4 4 false ∧ Claims.HasRow (.ldy (.abs w)) 0xAC 4 false ∧
    Claims.HasRow (.ldy (.abx w)) 0xBC 4 true) ∧
  ∀ (r : Operand) (s : State),
    let v := Claims.operandValue r s
    ((Instr.lda r).wf = true → Claims.ReadsInto (.lda r) s { s with a := v, p := Claims.znFrom s.p v }) ∧
    ((Instr.ldx r).wf = true → Claims.ReadsInto (.ldx r) s { s with x := v, p := Claims.znFrom s.p v }) ∧
    ((Instr.ldy r).wf = true → Claims.ReadsInto (.ldy r) s { s with y := v, p := Claims.znFrom s.p v })

/-- STA, STX, STY in every form: one write of the register at the effective address and no read of it; no flag and no
register changes, and in plain memory that byte takes the register and no other byte changes; the instruction completes;
with the opcodes and costs of each row (R124, R125, R126). -/
def Obligations.StoresWriteOneByte : Prop :=
  (∀ (n : Byte) (w : Addr),
    Claims.HasRow (.sta (.zp n)) 0x85 3 false ∧ Claims.HasRow (.sta (.zpx n)) 0x95 4 false ∧
    Claims.HasRow (.sta (.abs w)) 0x8D 4 false ∧ Claims.HasRow (.sta (.abx w)) 0x9D 5 false ∧
    Claims.HasRow (.sta (.aby w)) 0x99 5 false ∧ Claims.HasRow (.sta (.izx n)) 0x81 6 false ∧
    Claims.HasRow (.sta (.izy n)) 0x91 6 false ∧
    Claims.HasRow (.stx (.zp n)) 0x86 3 false ∧ Claims.HasRow (.stx (.zpy n)) 0x96 4 false ∧
    Claims.HasRow (.stx (.abs w)) 0x8E 4 false ∧
    Claims.HasRow (.sty (.zp n)) 0x84 3 false ∧ Claims.HasRow (.sty (.zpx n)) 0x94 4 false ∧
    Claims.HasRow (.sty (.abs w)) 0x8C 4 false) ∧
  ∀ (r : Operand) (s : State), ∀ iv ∈ [(Instr.sta r, s.a), (.stx r, s.x), (.sty r, s.y)], iv.1.wf = true →
    ∃ ea mem, Claims.dataAddr r s = some ea ∧ Claims.Stored s.bus mem [(ea, iv.2)] ∧
      exec iv.1 s = .next { s with
        cycles := s.cycles + Claims.formCost iv.1 s,
        bus := { s.bus with mem := mem, log := .write ea iv.2 :: (resolve r s).2.bus.log } }

/-- TAX, TAY, TXA, TYA, TSX copy a register and set Z and N; TXS copies X to SP and sets no flag; two cycles, no
access, nothing else changes (R141 to R146). -/
def Obligations.TransfersCopyRegister : Prop :=
  ∀ s : State,
    Claims.HasRow .tax 0xAA 2 false ∧ Claims.HasRow .tay 0xA8 2 false ∧ Claims.HasRow .txa 0x8A 2 false ∧
    Claims.HasRow .tya 0x98 2 false ∧ Claims.HasRow .tsx 0xBA 2 false ∧ Claims.HasRow .txs 0x9A 2 false ∧
    exec .tax s = .next { s with x := s.a, p := Claims.znFrom s.p s.a, cycles := s.cycles + 2 } ∧
    exec .tay s = .next { s with y := s.a, p := Claims.znFrom s.p s.a, cycles := s.cycles + 2 } ∧
    exec .txa s = .next { s with a := s.x, p := Claims.znFrom s.p s.x, cycles := s.cycles + 2 } ∧
    exec .tya s = .next { s with a := s.y, p := Claims.znFrom s.p s.y, cycles := s.cycles + 2 } ∧
    exec .tsx s = .next { s with x := s.sp, p := Claims.znFrom s.p s.sp, cycles := s.cycles + 2 } ∧
    exec .txs s = .next { s with sp := s.x, cycles := s.cycles + 2 }

/-- INC and DEC in every form: one read and one write of the effective address, the byte plus or minus one modulo 256,
Z and N from it; C, V and every register stay, and in plain memory that byte takes the result and every other byte stays
(R151, R154). -/
def Obligations.MemoryIncrementDecrement : Prop :=
  Claims.ModifyRows .inc 0xE6 0xF6 0xEE 0xFE ∧ Claims.ModifyRows .dec 0xC6 0xD6 0xCE 0xDE ∧
  ∀ (r : Operand) (s : State),
    let u := Claims.operandValue r s
    ∀ iv ∈ [(Instr.inc r, BitVec.ofNat 8 (u.toNat + 1)), (.dec r, BitVec.ofNat 8 (u.toNat + 255))], iv.1.wf = true →
      ∃ ea mem, Claims.dataAddr r s = some ea ∧ Claims.Stored s.bus mem [(ea, iv.2)] ∧
        exec iv.1 s = .next { s with
          p := Claims.znFrom s.p iv.2,
          cycles := s.cycles + Claims.formCost iv.1 s,
          bus := { s.bus with mem := mem, log := .write ea iv.2 :: .read ea u :: s.bus.log } }

/-- INX, INY, DEX, DEY: the register plus or minus one modulo 256, Z and N from it, nothing else (R152, R153, R155,
R156). -/
def Obligations.RegisterIncrementDecrement : Prop :=
  ∀ s : State,
    Claims.HasRow .inx 0xE8 2 false ∧ Claims.HasRow .iny 0xC8 2 false ∧
    Claims.HasRow .dex 0xCA 2 false ∧ Claims.HasRow .dey 0x88 2 false ∧
    (let v := BitVec.ofNat 8 (s.x.toNat + 1)
     exec .inx s = .next { s with x := v, p := Claims.znFrom s.p v, cycles := s.cycles + 2 }) ∧
    (let v := BitVec.ofNat 8 (s.y.toNat + 1)
     exec .iny s = .next { s with y := v, p := Claims.znFrom s.p v, cycles := s.cycles + 2 }) ∧
    (let v := BitVec.ofNat 8 (s.x.toNat + 255)
     exec .dex s = .next { s with x := v, p := Claims.znFrom s.p v, cycles := s.cycles + 2 }) ∧
    (let v := BitVec.ofNat 8 (s.y.toNat + 255)
     exec .dey s = .next { s with y := v, p := Claims.znFrom s.p v, cycles := s.cycles + 2 })

/-- k INX in a row add k to X modulo 256 in 2k cycles and leave Z telling whether X is zero; so 256 of them give X back
(R152, and the property the spec quotes there). -/
def Obligations.RepeatedIncrementWraps : Prop :=
  ∀ (k : Nat) (s : State), ∃ t,
    Claims.execAll (List.replicate k .inx) s = .next t ∧
    t.x = BitVec.ofNat 8 (s.x.toNat + k) ∧ t.cycles = s.cycles + 2 * k ∧
    (1 ≤ k → t.p.z = decide ((s.x.toNat + k) % 256 = 0)) ∧
    t.a = s.a ∧ t.y = s.y ∧ t.sp = s.sp ∧ t.pc = s.pc ∧ t.bus = s.bus

/-! ### Arithmetic, compare, logic -/

/-- ADC in every form: A takes the sum of A, the operand and C modulo 256; C is the unsigned carry, V the overflow of
the signed sum, Z and N of the result; D plays no part and nothing else changes (R160, R161). -/
def Obligations.AdcAddsWithCarry : Prop :=
  Claims.AluRows .adc 0x69 0x65 0x75 0x6D 0x7D 0x79 0x61 0x71 ∧
  ∀ (r : Operand) (s : State), (Instr.adc r).wf = true →
    let m := Claims.operandValue r s
    let sum := s.a.toNat + m.toNat + s.p.c.toNat
    let signed : Int := s.a.toInt + m.toInt + s.p.c.toNat
    let res := BitVec.ofNat 8 sum
    Claims.ReadsInto (.adc r) s { s with
      a := res,
      p := Claims.znFrom { s.p with
        c := decide (255 < sum), v := decide (signed < -128 ∨ 127 < signed) } res }

/-- SBC in every form: A takes A minus the operand minus the borrow 1 - C, modulo 256; C is 1 exactly when no borrow is
needed, V the overflow of the signed difference, Z and N of the result (R160, R162). -/
def Obligations.SbcSubtractsWithBorrow : Prop :=
  Claims.AluRows .sbc 0xE9 0xE5 0xF5 0xED 0xFD 0xF9 0xE1 0xF1 ∧
  ∀ (r : Operand) (s : State), (Instr.sbc r).wf = true →
    let m := Claims.operandValue r s
    let borrow := 1 - s.p.c.toNat
    let signed : Int := s.a.toInt - m.toInt - borrow
    let res := BitVec.ofInt 8 (s.a.toNat - m.toNat - borrow)
    Claims.ReadsInto (.sbc r) s { s with
      a := res,
      p := Claims.znFrom { s.p with
        c := decide (m.toNat + borrow ≤ s.a.toNat), v := decide (signed < -128 ∨ 127 < signed) } res }

/-- CMP, CPX, CPY in every form: C is "register not below operand", Z equality, N bit 7 of the difference; V, the
registers and memory stay (R164 to R167). -/
def Obligations.ComparesSetFlags : Prop :=
  Claims.AluRows .cmp 0xC9 0xC5 0xD5 0xCD 0xDD 0xD9 0xC1 0xD1 ∧
  (∀ (n : Byte) (w : Addr),
    Claims.HasRow (.cpx (.imm n)) 0xE0 2 false ∧ Claims.HasRow (.cpx (.zp n)) 0xE4 3 false ∧
    Claims.HasRow (.cpx (.abs w)) 0xEC 4 false ∧ Claims.HasRow (.cpy (.imm n)) 0xC0 2 false ∧
    Claims.HasRow (.cpy (.zp n)) 0xC4 3 false ∧ Claims.HasRow (.cpy (.abs w)) 0xCC 4 false) ∧
  ∀ (r : Operand) (s : State),
    let m := Claims.operandValue r s
    ∀ iv ∈ [(Instr.cmp r, s.a), (.cpx r, s.x), (.cpy r, s.y)], iv.1.wf = true →
      Claims.ReadsInto iv.1 s { s with
        p := { s.p with
          c := decide (m.toNat ≤ iv.2.toNat), z := decide (iv.2 = m),
          n := decide (128 ≤ (iv.2.toNat + 256 - m.toNat) % 256) } }

/-- `CLC; ADC m; SEC; SBC m` gives A back for every A and m; with the same carry c before both, A comes back plus
2c - 1, so never (R163). -/
def Obligations.AdcSbcRoundTrip : Prop :=
  ∀ (m : Byte) (s : State),
    (∃ t, Claims.execAll [.clc, .adc (.imm m), .sec, .sbc (.imm m)] s = .next t ∧ t.a = s.a) ∧
    (∃ t, Claims.execAll [.clc, .adc (.imm m), .clc, .sbc (.imm m)] s = .next t ∧ t.a = s.a - 1) ∧
    (∃ t, Claims.execAll [.sec, .adc (.imm m), .sec, .sbc (.imm m)] s = .next t ∧ t.a = s.a + 1)

/-- AND, ORA, EOR in every form: A takes the bitwise result, Z and N from it; C and V stay (R181, R182, R183). -/
def Obligations.LogicWritesA : Prop :=
  Claims.AluRows .and 0x29 0x25 0x35 0x2D 0x3D 0x39 0x21 0x31 ∧
  Claims.AluRows .ora 0x09 0x05 0x15 0x0D 0x1D 0x19 0x01 0x11 ∧
  Claims.AluRows .eor 0x49 0x45 0x55 0x4D 0x5D 0x59 0x41 0x51 ∧
  ∀ (r : Operand) (s : State),
    let m := Claims.operandValue r s
    ∀ iv ∈ [(Instr.and r, s.a &&& m), (.ora r, s.a ||| m), (.eor r, s.a ^^^ m)], iv.1.wf = true →
      Claims.ReadsInto iv.1 s { s with a := iv.2, p := Claims.znFrom s.p iv.2 }

/-- BIT in both forms: Z from A and the memory byte, V and N bits 6 and 7 of the byte alone; A and C stay (R184). -/
def Obligations.BitTestsMemory : Prop :=
  (∀ (n : Byte) (w : Addr),
    Claims.HasRow (.bit (.zp n)) 0x24 3 false ∧ Claims.HasRow (.bit (.abs w)) 0x2C 4 false) ∧
  ∀ (r : Operand) (s : State), (Instr.bit r).wf = true →
    let m := Claims.operandValue r s
    Claims.ReadsInto (.bit r) s { s with
      p := { s.p with
        z := decide (s.a &&& m = 0), v := decide (64 ≤ m.toNat % 128), n := decide (128 ≤ m.toNat) } }

/-! ### Shifts and rotates -/

/-- The results and carries of ASL, LSR, ROL, ROR on a byte `u` with carry `c`, as numbers (R191 to R194). -/
def Sys2Proof.Claims.shifts (r : Operand) (u : Byte) (c : Bool) : List (Instr × Byte × Bool) :=
  [(.asl r, BitVec.ofNat 8 (u.toNat * 2), decide (128 ≤ u.toNat)),
   (.lsr r, BitVec.ofNat 8 (u.toNat / 2), decide (u.toNat % 2 = 1)),
   (.rol r, BitVec.ofNat 8 (u.toNat * 2 + c.toNat), decide (128 ≤ u.toNat)),
   (.ror r, BitVec.ofNat 8 (u.toNat / 2 + c.toNat * 128), decide (u.toNat % 2 = 1))]

/-- ASL, LSR, ROL, ROR in every form. On the accumulator: A shifted by one place, C the bit shifted out, Z and N of the
result, two cycles, no access, nothing else. On memory: one read and one write of the effective address, C the bit
shifted out, Z and N of the result, every register and V as before, and in plain memory that byte the result and every
other byte as before (R191 to R194). -/
def Obligations.ShiftsAndRotates : Prop :=
  (Claims.HasRow (.asl .acc) 0x0A 2 false ∧ Claims.HasRow (.lsr .acc) 0x4A 2 false ∧
   Claims.HasRow (.rol .acc) 0x2A 2 false ∧ Claims.HasRow (.ror .acc) 0x6A 2 false ∧
   Claims.ModifyRows .asl 0x06 0x16 0x0E 0x1E ∧ Claims.ModifyRows .lsr 0x46 0x56 0x4E 0x5E ∧
   Claims.ModifyRows .rol 0x26 0x36 0x2E 0x3E ∧ Claims.ModifyRows .ror 0x66 0x76 0x6E 0x7E) ∧
  (∀ s : State, ∀ f ∈ Claims.shifts .acc s.a s.p.c,
    exec f.1 s = .next { s with
      a := f.2.1, p := Claims.znFrom { s.p with c := f.2.2 } f.2.1, cycles := s.cycles + 2 }) ∧
  ∀ (r : Operand) (s : State), r.isShiftForm = true → r ≠ .acc →
    let u := Claims.operandValue r s
    ∀ f ∈ Claims.shifts r u s.p.c,
      ∃ ea mem, Claims.dataAddr r s = some ea ∧ Claims.Stored s.bus mem [(ea, f.2.1)] ∧
        exec f.1 s = .next { s with
          p := Claims.znFrom { s.p with c := f.2.2 } f.2.1,
          cycles := s.cycles + Claims.formCost f.1 s,
          bus := { s.bus with mem := mem, log := .write ea f.2.1 :: .read ea u :: s.bus.log } }

/-- Nine ROL A give A and C back, and so do nine ROR A (R193). -/
def Obligations.NineRotatesRestore : Prop :=
  ∀ s : State, ∀ i ∈ [Instr.rol .acc, .ror .acc],
    ∃ t, Claims.execAll (List.replicate 9 i) s = .next t ∧ t.a = s.a ∧ t.p.c = s.p.c ∧ t.cycles = s.cycles + 18

/-! ### Branches, jumps, subroutines, the stack -/

/-- The eight branches: when the flag has the sense, PC takes the address of the next instruction plus the signed
offset, in 3 cycles, or 4 to another page; otherwise nothing but 2 cycles; no flag, register or memory changes (R77,
R200 to R208). -/
def Obligations.BranchesGoToTarget : Prop :=
  ∀ (rr : Byte) (s : State),
    ∀ f ∈ [(Instr.bcc rr, (0x90 : Byte), !s.p.c), (.bcs rr, 0xB0, s.p.c), (.beq rr, 0xF0, s.p.z), (.bne rr, 0xD0, !s.p.z),
           (.bmi rr, 0x30, s.p.n), (.bpl rr, 0x10, !s.p.n), (.bvc rr, 0x50, !s.p.v), (.bvs rr, 0x70, s.p.v)],
      Claims.HasRow f.1 f.2.1 2 false ∧
      (let target := Claims.branchTarget s.pc rr
       exec f.1 s = .next (if f.2.2 then
         { s with pc := target, cycles := s.cycles + (if target.toNat / 256 = s.pc.toNat / 256 then 3 else 4) }
       else { s with cycles := s.cycles + 2 }))

/-- JMP: PC takes the operand, or the word read through the pointer, whose high byte comes from the pointer's own page;
nothing else changes but the pointer's two reads (R60, R74, R220). -/
def Obligations.JumpsGoToAddress : Prop :=
  ∀ (w : Addr) (s : State),
    Claims.HasRow (.jmp (.abs w)) 0x4C 3 false ∧ Claims.HasRow (.jmp (.ind w)) 0x6C 5 false ∧
    exec (.jmp (.abs w)) s = .next { s with pc := w, cycles := s.cycles + 3 } ∧
    (let second := BitVec.ofNat 16 (w.toNat / 256 * 256 + (w.toNat % 256 + 1) % 256)
     ∃ lo hi, Claims.Answered s w lo ∧ Claims.Answered s second hi ∧
       exec (.jmp (.ind w)) s = .next { s with
         pc := BitVec.ofNat 16 (hi.toNat * 256 + lo.toNat), cycles := s.cycles + 5,
         bus := { s.bus with log := .read second hi :: .read w lo :: s.bus.log } })

/-- JSR: the address of the call's last byte is pushed, high byte first, and PC takes the target; no flag changes, and on
a stack in plain memory no byte but the two stack bytes (R62, R221). -/
def Obligations.JsrPushesReturnAddress : Prop :=
  ∀ (w : Addr) (s : State), Claims.HasRow (.jsr w) 0x20 6 false ∧
    ∃ mem,
      Claims.Stored s.bus mem
        [(Claims.slot s.sp, hiByte (s.pc - 1)), (Claims.slot (s.sp - 1), loByte (s.pc - 1))] ∧
      exec (.jsr w) s = .next { s with
        sp := s.sp - 2, pc := w, cycles := s.cycles + 6,
        bus := { s.bus with
          mem := mem,
          log := .write (Claims.slot (s.sp - 1)) (loByte (s.pc - 1))
            :: .write (Claims.slot s.sp) (hiByte (s.pc - 1)) :: s.bus.log } }

/-- RTS: PC takes the word pulled low byte first, plus one modulo 65536; memory and flags stay (R63, R222). -/
def Obligations.RtsPullsReturnAddress : Prop :=
  ∀ s : State, Claims.HasRow .rts 0x60 6 false ∧
    ∃ lo hi, Claims.Answered s (Claims.slot (s.sp + 1)) lo ∧ Claims.Answered s (Claims.slot (s.sp + 2)) hi ∧
      exec .rts s = .next { s with
        sp := s.sp + 2, pc := BitVec.ofNat 16 (hi.toNat * 256 + lo.toNat + 1), cycles := s.cycles + 6,
        bus := { s.bus with
          log := .read (Claims.slot (s.sp + 2)) hi :: .read (Claims.slot (s.sp + 1)) lo :: s.bus.log } }

/-- PHA pushes A and PHP pushes P with bits 4 and 5 set; SP goes down by one modulo 256, no flag (the stored B too)
changes, and on a stack in plain memory no byte but the stack byte (R62, R223, R225). -/
def Obligations.PushesStoreOneByte : Prop :=
  ∀ s : State, Claims.HasRow .pha 0x48 3 false ∧ Claims.HasRow .php 0x08 3 false ∧
    ∀ f ∈ [(Instr.pha, s.a), (.php, Claims.statusByte s.p true)],
      ∃ mem, Claims.Stored s.bus mem [(Claims.slot s.sp, f.2)] ∧
        exec f.1 s = .next { s with
          sp := s.sp - 1, cycles := s.cycles + 3,
          bus := { s.bus with mem := mem, log := .write (Claims.slot s.sp) f.2 :: s.bus.log } }

/-- PLA pulls A with Z and N from it; PLP pulls all seven flags, bit 5 ignored; SP goes up by one modulo 256 and nothing
else changes (R63, R224, R226). -/
def Obligations.PullsReadOneByte : Prop :=
  ∀ s : State, Claims.HasRow .pla 0x68 4 false ∧ Claims.HasRow .plp 0x28 4 false ∧
    ∃ v, Claims.Answered s (Claims.slot (s.sp + 1)) v ∧
      exec .pla s = .next { s with
        a := v, sp := s.sp + 1, p := Claims.znFrom s.p v, cycles := s.cycles + 4,
        bus := { s.bus with log := .read (Claims.slot (s.sp + 1)) v :: s.bus.log } } ∧
      exec .plp s = .next { s with
        sp := s.sp + 1, p := Claims.flagsOf v, cycles := s.cycles + 4,
        bus := { s.bus with log := .read (Claims.slot (s.sp + 1)) v :: s.bus.log } }

/-- Where the stack is plain memory, PHA then PLA gives A and SP back, with Z and N set from A; PHP then PLP gives every
flag and SP back except that B becomes 1 (R224, R226). -/
def Obligations.PushThenPullRestores : Prop :=
  ∀ s : State, Claims.PlainStack s →
    (∃ t, Claims.execAll [.pha, .pla] s = .next t ∧ t.a = s.a ∧ t.sp = s.sp ∧ t.p = Claims.znFrom s.p s.a) ∧
    (∃ t, Claims.execAll [.php, .plp] s = .next t ∧ t.sp = s.sp ∧ t.p = { s.p with b := true })

/-- Where the stack is plain memory, RTS right after JSR goes to the instruction after the JSR with the stack pointer as
it was (R221, R222). -/
def Obligations.RtsAfterJsrReturns : Prop :=
  ∀ (w : Addr) (s : State), Claims.PlainStack s →
    ∃ t, Claims.execAll [.jsr w, .rts] s = .next t ∧ t.pc = s.pc ∧ t.sp = s.sp ∧ t.p = s.p ∧ t.a = s.a ∧
      t.cycles = s.cycles + 12

/-! ### Flags, BRK, RTI, NOP, the fallback -/

/-- CLC, SEC, CLD, SED, CLI, SEI, CLV each write one flag and nothing else, in two cycles with no access (R239 to
R246). -/
def Obligations.FlagInstructionsWriteOneFlag : Prop :=
  ∀ s : State,
    ∀ f ∈ [(Instr.clc, (0x18 : Byte), { s.p with c := false }), (.sec, 0x38, { s.p with c := true }),
           (.cld, 0xD8, { s.p with d := false }), (.sed, 0xF8, { s.p with d := true }),
           (.cli, 0x58, { s.p with i := false }), (.sei, 0x78, { s.p with i := true }),
           (.clv, 0xB8, { s.p with v := false })],
      Claims.HasRow f.1 f.2.1 2 false ∧ exec f.1 s = .next { s with p := f.2.2, cycles := s.cycles + 2 }

/-- BRK, whatever I: pushes its address plus two and the status byte with bit 4 set, sets I, goes through 0xFFFE, in 7
cycles; the stored B and D, A, X and Y stay, and on a stack in plain memory no byte but the three pushed changes (R247,
R280, R282). With PC past the opcode, that address is PC + 1. -/
def Obligations.BrkEntersThroughVector : Prop :=
  ∀ s : State, Claims.HasRow .brk 0x00 7 false ∧
    ∃ t, exec .brk s = .next t ∧ Claims.Entered s t (s.pc + 1) 0xFFFE true 7

/-- RTI: all seven flags from the pulled byte, then PC low and high with no + 1; A, X, Y and memory stay (R248). -/
def Obligations.RtiRestoresStatusAndPc : Prop :=
  ∀ s : State, Claims.HasRow .rti 0x40 6 false ∧
    ∃ v lo hi, Claims.Answered s (Claims.slot (s.sp + 1)) v ∧ Claims.Answered s (Claims.slot (s.sp + 2)) lo ∧
      Claims.Answered s (Claims.slot (s.sp + 3)) hi ∧
      exec .rti s = .next { s with
        sp := s.sp + 3, pc := BitVec.ofNat 16 (hi.toNat * 256 + lo.toNat), p := Claims.flagsOf v,
        cycles := s.cycles + 6,
        bus := { s.bus with
          log := .read (Claims.slot (s.sp + 3)) hi :: .read (Claims.slot (s.sp + 2)) lo
            :: .read (Claims.slot (s.sp + 1)) v :: s.bus.log } }

/-- NOP and the fallback of each undocumented opcode change nothing but the cycle counter (R249, R250). -/
def Obligations.NoOperationsOnlyCost : Prop :=
  ∀ s : State, Claims.HasRow .nop 0xEA 2 false ∧ exec .nop s = .next { s with cycles := s.cycles + 2 } ∧
    ∀ opc ∈ undocumentedOpcodes,
      Claims.HasRow (.undoc opc) opc Config.undocCycles false ∧
      exec (.undoc opc) s = .next { s with cycles := s.cycles + Config.undocCycles }

/-! ### What each instruction may write -/

/-- A, X, Y and SP change only in the instructions that R21 to R24 list as writing them; an NMI or IRQ entry leaves A, X
and Y. -/
def Obligations.RegistersChangeOnlyAsListed : Prop :=
  (∀ (i : Instr) (s t : State), exec i s = .next t →
    (Claims.writesA i = false → t.a = s.a) ∧ (Claims.writesX i = false → t.x = s.x) ∧
    (Claims.writesY i = false → t.y = s.y) ∧ (Claims.writesSp i = false → t.sp = s.sp)) ∧
  ∀ (e : Event) (s : State), (s.takeEvent e).a = s.a ∧ (s.takeEvent e).x = s.x ∧ (s.takeEvent e).y = s.y

/-- Each flag changes only in the instructions that R28 to R34 list as writing it. -/
def Obligations.FlagsChangeOnlyAsListed : Prop :=
  ∀ (i : Instr) (s t : State), exec i s = .next t →
    (Claims.writesC i = false → t.p.c = s.p.c) ∧ (Claims.writesZN i = false → t.p.z = s.p.z ∧ t.p.n = s.p.n) ∧
    (Claims.writesI i = false → t.p.i = s.p.i) ∧ (Claims.writesD i = false → t.p.d = s.p.d) ∧
    (Claims.writesB i = false → t.p.b = s.p.b) ∧ (Claims.writesV i = false → t.p.v = s.p.v)

/-- Memory changes only in the forms that store (R79), PC only in the instructions that R103 names, and the interrupt
inputs and the windows of the bus, the model's own field (log entry 1), in none (R40, R41). -/
def Obligations.MemoryAndPcChangeOnlyAsListed : Prop :=
  ∀ (i : Instr) (s t : State), exec i s = .next t →
    (Claims.writesMemory i = false → t.bus.mem = s.bus.mem) ∧ (Claims.writesPc i = false → t.pc = s.pc) ∧
    t.nmiPending = s.nmiPending ∧ t.irqLine = s.irqLine ∧ t.bus.windows = s.bus.windows

/-- D has no effect on anything but itself and the status bytes PHP and BRK push: every other instruction that does not
write D does the same with D changed, D aside; CLD, SED, PLP, RTI end in the same state; PHP, BRK and an NMI or IRQ entry
differ in D and the one status byte pushed, and no boundary takes another event (R31, R160, R280). Where the vector of BRK
or of an entry lies in a window, what it answers may depend on the byte pushed, as on any earlier access (log entry 3). -/
def Obligations.DecimalFlagIsInert : Prop :=
  ∀ (i : Instr) (d : Bool) (s : State),
    (Claims.writesD i = true → exec i (Claims.withD d s) = exec i s) ∧
    (Claims.writesD i = false → i ≠ .php → i ≠ .brk →
      exec i (Claims.withD d s) = Claims.mapNext (Claims.withD d) (exec i s)) ∧
  (∃ t u, exec .php s = .next t ∧ exec .php (Claims.withD d s) = .next u ∧
    Claims.DifferInPushedStatus s t u d true (Claims.slot s.sp) True) ∧
  (∃ t u, exec .brk s = .next t ∧ exec .brk (Claims.withD d s) = .next u ∧
    Claims.DifferInPushedStatus s t u d true (Claims.slot (s.sp - 2))
      (s.bus.inWindow 0xFFFE = false ∧ s.bus.inWindow 0xFFFF = false)) ∧
  ((Claims.withD d s).pendingEvent = s.pendingEvent ∧
    ∀ e : Event, Claims.DifferInPushedStatus s (s.takeEvent e) ((Claims.withD d s).takeEvent e) d e.breakBit
      (Claims.slot (s.sp - 2))
      (s.bus.inWindow e.vector = false ∧ s.bus.inWindow (e.vector + 1) = false))

/-- The stored B has no effect on anything but itself: PLP and RTI, which write it, end in the same state whatever it
was, and every other instruction, PHP and BRK too, and every NMI or IRQ entry, does the same with B changed (R32,
R282). -/
def Obligations.BreakFlagIsInert : Prop :=
  (∀ (i : Instr) (b : Bool) (s : State),
    (Claims.writesB i = true → exec i (Claims.withB b s) = exec i s) ∧
    (Claims.writesB i = false → exec i (Claims.withB b s) = Claims.mapNext (Claims.withB b) (exec i s))) ∧
  ∀ (e : Event) (b : Bool) (s : State), (Claims.withB b s).takeEvent e = Claims.withB b (s.takeEvent e)

/-! ### Interrupts, reset and the host -/

/-- A pending NMI is entered at the boundary whatever I and the IRQ line are: PC and the status byte with bit 4 clear
are pushed, I is set, the latch cleared, PC taken from 0xFFFA, in 7 cycles; an active IRQ then waits, since no event is
pending after the entry (R273, R277, R279, R280). -/
def Obligations.NmiIsEnteredFirst : Prop :=
  ∀ s : State, s.nmiPending = true →
    ∃ t, step s = .next t ∧
      Claims.Entered { s with nmiPending := false } t s.pc 0xFFFA false 7 ∧ t.pendingEvent = none

/-- An active IRQ line with I clear and no NMI pending is entered at the boundary through 0xFFFE, the line staying as it
is; with I set, or the line inactive, and no NMI pending, the step fetches and runs an instruction (R274, R277, R278,
R280). -/
def Obligations.IrqIsEnteredWhenUnmasked : Prop :=
  ∀ s : State, s.nmiPending = false →
    (s.irqLine = true → s.p.i = false →
      ∃ t, step s = .next t ∧ Claims.Entered s t s.pc 0xFFFE false 7) ∧
    (s.irqLine = false ∨ s.p.i = true → step s = exec s.fetchInstr.1 s.fetchInstr.2)

/-- A change of I counts at the very next boundary: after CLI with the IRQ line active the next step enters the IRQ with
the next instruction's address pushed; after SEI it does not; after PLP and RTI it goes by the pulled bit (R331,
R288). -/
def Obligations.ChangeOfMaskCountsAtOnce : Prop :=
  ∀ s : State, s.irqLine = true → s.nmiPending = false →
    (∃ t u, exec .cli s = .next t ∧ step t = .next u ∧ Claims.Entered t u s.pc 0xFFFE false 7) ∧
    (∃ t, exec .sei s = .next t ∧ step t = exec t.fetchInstr.1 t.fetchInstr.2) ∧
    ∀ i ∈ [Instr.plp, .rti], ∃ t, exec i s = .next t ∧
      (t.p.i = false → ∃ u, step t = .next u ∧ Claims.Entered t u t.pc 0xFFFE false 7) ∧
      (t.p.i = true → step t = exec t.fetchInstr.1 t.fetchInstr.2)

/-- Where the stack is plain memory, RTI right after an NMI or IRQ entry resumes the interrupted program: PC, SP, A, X,
Y and every flag are as before the entry, but for B, which is the 0 pushed; after BRK the return goes to the BRK's
address plus two with B 1 (R285, R286, R247). -/
def Obligations.ReturnFromInterruptResumes : Prop :=
  ∀ s : State, Claims.PlainStack s →
    (∀ e, s.pendingEvent = some e → ∃ t u, step s = .next t ∧ exec .rti t = .next u ∧
      u.pc = s.pc ∧ u.sp = s.sp ∧ u.a = s.a ∧ u.x = s.x ∧ u.y = s.y ∧ u.p = { s.p with b := false }) ∧
    (∃ u, Claims.execAll [.brk, .rti] s = .next u ∧
      u.pc = s.pc + 1 ∧ u.sp = s.sp ∧ u.a = s.a ∧ u.x = s.x ∧ u.y = s.y ∧ u.p = { s.p with b := true })

/-- The packed status byte is N V 1 b D I Z C, its bit 5 always 1; unpacking a packed byte gives the flags back with B
the packed bit; packing an unpacked byte with its own bit 4 gives it back with bit 5 set (R27, R35, R37, R38). -/
def Obligations.StatusByteRoundTrip : Prop :=
  (∀ (p : Flags) (b : Bool),
    p.pack b = Claims.statusByte p b ∧ (p.pack b).getLsbD 5 = true ∧ Flags.unpack (p.pack b) = { p with b := b }) ∧
  (∀ v : Byte, Flags.unpack v = Claims.flagsOf v ∧ (Flags.unpack v).pack (v.getLsbD 4) = v ||| 0x20) ∧
  ∀ s : State, s.snapshot.p.getLsbD 5 = true ∧ Flags.unpack s.snapshot.p = s.p

/-- `reset()`: SP minus three, I set, the NMI latch cleared, PC from 0xFFFC and 0xFFFD, 7 cycles, the controller
Running, exactly the two vector reads; A, X, Y, the other flags, the IRQ line and memory stay (R320, R321). -/
def Obligations.ResetSequence : Prop :=
  ∀ s : State, ∃ lo hi, Claims.Answered s 0xFFFC lo ∧ Claims.Answered s 0xFFFD hi ∧
    hostCall .reset s = .next { s with
      sp := s.sp - 3, p := { s.p with i := true }, nmiPending := false,
      pc := BitVec.ofNat 16 (hi.toNat * 256 + lo.toNat), cycles := s.cycles + 7, ic := .running,
      bus := { s.bus with log := .read 0xFFFD hi :: .read 0xFFFC lo :: s.bus.log } }

/-- The state after power-on, for every draw and every bus: the table of R325 (R322, R324, R325). -/
def Obligations.PowerOnState : Prop :=
  ∀ (d : Config.PowerOn) (b : Bus), ∃ lo hi,
    (b.inWindow 0xFFFC = false → lo = Claims.cell b.mem 0xFFFC) ∧
    (b.inWindow 0xFFFD = false → hi = Claims.cell b.mem 0xFFFD) ∧
    State.powerOn d b =
      { a := d.a, x := d.x, y := d.y, sp := d.sp - 3, pc := BitVec.ofNat 16 (hi.toNat * 256 + lo.toNat),
        p := { c := d.c, z := d.z, i := true, d := d.d, b := d.b, v := d.v, n := d.n },
        nmiPending := false, irqLine := false, ic := .running, cycles := d.cycles + 7,
        bus := { b with log := .read 0xFFFD hi :: .read 0xFFFC lo :: b.log } }

/-- `request_nmi()` sets the latch and nothing else, two requests are one; `set_irq_line(b)` sets the line and nothing
else; a step leaves the line as it is and never leaves an NMI pending; a reset leaves the line and drops the NMI
(R273, R274, R321). -/
def Obligations.InterruptInputs : Prop :=
  (∀ (s : State) (active : Bool),
    hostCall .requestNmi s = .next { s with nmiPending := true } ∧
    hostCalls [.requestNmi, .requestNmi] s = hostCall .requestNmi s ∧
    hostCall (.setIrqLine active) s = .next { s with irqLine := active } ∧
    s.resetCall.irqLine = s.irqLine ∧ s.resetCall.nmiPending = false) ∧
  ∀ s t : State, step s = .next t → t.irqLine = s.irqLine ∧ t.nmiPending = false

/-- A store into plain memory is seen by the very next fetch: after any instruction, the instruction fetched next is the
one its bytes decode to, opcode and operand bytes, each the newest byte the instruction wrote there, else the byte that
stood there; and where STA, STX or STY stores at the address of the next instruction, it is the one whose opcode was
stored (R86, R332). -/
def Obligations.StoreIsSeenByNextFetch : Prop :=
  (∀ (r : Operand) (s : State), ∀ iv ∈ [(Instr.sta r, s.a), (.stx r, s.x), (.sty r, s.y)], iv.1.wf = true →
    Claims.dataAddr r s = some s.pc → s.bus.inWindow s.pc = false →
    ∃ t b w, exec iv.1 s = .next t ∧ t.pc = s.pc ∧ t.fetchInstr.1 = decodeOpcode iv.2 b w) ∧
  ∀ (i : Instr) (s : State), i.wf = true →
    ∃ t made, exec i s = .next t ∧ t.bus.log = made ++ s.bus.log ∧
      (let now := fun a => Claims.afterWrites a (s.byteAt a) made
       ∀ j rest, decode [now t.pc, now (t.pc + 1), now (t.pc + 2)] = .instr j rest →
         (∀ k < j.size, s.bus.inWindow (t.pc + BitVec.ofNat 16 k) = false) → t.fetchInstr.1 = j)

/-- At the end of a run, in plain memory, the step spins: three cycles and the fetch of the jump, every register, flag
and byte of memory as before, and still the end of the run (R337). -/
def Obligations.EndOfRunSpins : Prop :=
  ∀ s : State, s.endOfRun = true → (∀ k < 3, s.bus.inWindow (s.pc + BitVec.ofNat 16 k) = false) →
    ∃ t, step s = .next t ∧ t.endOfRun = true ∧
      t = { s with
        cycles := s.cycles + 3, bus := { s.bus with log := Claims.fetchReads s 3 ++ s.bus.log } }

/-! ### The bus and its owner, as the model has them -/

/-- After every instruction and every NMI or IRQ entry a byte of plain memory holds the newest byte written to it, each
read of plain memory answered the newest byte written before it, and no cell behind a window changed (R50, R55, R83).
That a store into a window changes no cell is the model's choice, log entry 10 (DESIGN CHOICE): the spec leaves it to the
bus (R51, R80). -/
def Obligations.MemoryHoldsNewestWrites : Prop :=
  (∀ (i : Instr) (s : State), i.wf = true → ∃ t made, exec i s = .next t ∧ Claims.MemoryFollows s t made) ∧
  ∀ (e : Event) (s : State), ∃ made, Claims.MemoryFollows s (s.takeEvent e) made

/-- The owner's store between two steps reaches the next read: in plain memory a load answers the byte stored, and every
other byte stays; in a window it changes no cell, and a load answers from a history that holds the store. A change inside
a device reaches the loads of every window the same way. Neither changes a register, a flag, the cycles or an interrupt
input (R80, R83, R338). The history as the carrier, and the moves, are the model's, log entries 3, 10 and 11. -/
def Obligations.OwnerChangesReachReads : Prop :=
  ∀ s : State,
    (∀ (a : Addr) (v : Byte), ∃ mem t,
      hostCall (.ownerWrite a v) s = .next t ∧
      t = { s with bus := { s.bus with mem := mem, log := .ownerStore a v :: s.bus.log } } ∧
      (s.bus.inWindow a = true → mem = s.bus.mem) ∧
      (s.bus.inWindow a = false → Claims.cell mem a = v ∧ ∀ c, c ≠ a → Claims.cell mem c = s.byteAt c) ∧
      ∀ c, ∃ u, exec (.lda (.abs c)) t = .next u ∧
        u.a = if s.bus.inWindow c then Config.busAnswer (.ownerStore a v :: s.bus.log) c
          else if c = a then v else s.byteAt c) ∧
    ∀ what : Nat, ∃ t,
      hostCall (.deviceChange what) s = .next t ∧
      t = { s with bus := { s.bus with log := .deviceChange what :: s.bus.log } } ∧
      ∀ c, ∃ u, exec (.lda (.abs c)) t = .next u ∧
        u.a = if s.bus.inWindow c then Config.busAnswer (.deviceChange what :: s.bus.log) c else s.byteAt c
end

