-- ==== Sys2Proof/Laws/Memory.lean ====
section
/-! SUPPORT. Memory as a canonical list of cells: read after write, and that every memory operation keeps the form. -/

namespace Sys2Proof.Machine

theorem Memory.read_erase (m : List Host.Cell) (a c : Nat) :
    Memory.read (Memory.erase m a) c = if c = a then Memory.unlisted else Memory.read m c := by
  induction m with
  | nil => simp [Memory.erase, Memory.read]
  | cons kv rest ih =>
    obtain ⟨k, v⟩ := kv
    by_cases hk : k = a
    · subst hk
      simp only [Memory.erase, if_true, ih, Memory.read]
      by_cases hc : c = k
      · simp [hc]
      · simp [hc, Ne.symm hc]
    · by_cases hkc : k = c
      · subst hkc
        simp [Memory.erase, hk, Memory.read]
      · simp [Memory.erase, hk, Memory.read, hkc, ih]

theorem Memory.read_insert (m : List Host.Cell) (a c : Nat) (v : Byte) :
    Memory.read (Memory.insert m a v) c = if c = a then v else Memory.read m c := by
  induction m with
  | nil => simp [Memory.insert, Memory.read, eq_comm (a := a)]
  | cons kv rest ih =>
    obtain ⟨k, w⟩ := kv
    simp only [Memory.insert]
    split
    · simp [Memory.read, eq_comm (a := a)]
    · split
      · rename_i hk
        subst hk
        by_cases h : c = k
        · simp [Memory.read, h]
        · simp [Memory.read, h, Ne.symm h]
      · by_cases hkc : k = c
        · subst hkc
          rename_i hk
          simp [Memory.read, hk]
        · simp [Memory.read, hkc, ih]

/-- Reading after a write: the value at the address written, every other byte as before. -/
theorem Memory.read_write (m : List Host.Cell) (a c : Nat) (v : Byte) :
    Memory.read (Memory.write m a v) c = if c = a then v else Memory.read m c := by
  unfold Memory.write
  split
  · rename_i h
    rw [Memory.read_erase, h]
  · exact Memory.read_insert m a c v

theorem Memory.read_write_same (m : List Host.Cell) (a : Nat) (v : Byte) :
    Memory.read (Memory.write m a v) a = v := by simp [Memory.read_write]

theorem Memory.read_write_other (m : List Host.Cell) (a c : Nat) (v : Byte) (h : a ≠ c) :
    Memory.read (Memory.write m a v) c = Memory.read m c := by simp [Memory.read_write, Ne.symm h]

/-- A lower starting point is a weaker demand. -/
theorem Memory.wfFrom_mono {lo lo' : Nat} (h : lo' ≤ lo) {m : List Host.Cell} (hw : Memory.wfFrom lo m = true) :
    Memory.wfFrom lo' m = true := by
  cases m with
  | nil => rfl
  | cons kv rest =>
    obtain ⟨k, v⟩ := kv
    simp only [Memory.wfFrom, Bool.and_eq_true, decide_eq_true_eq, bne_iff_ne] at hw ⊢
    exact ⟨⟨⟨by omega, hw.1.1.2⟩, hw.1.2⟩, hw.2⟩

theorem Memory.wfFrom_erase {lo : Nat} {m : List Host.Cell} (h : Memory.wfFrom lo m = true) (a : Nat) :
    Memory.wfFrom lo (Memory.erase m a) = true := by
  induction m generalizing lo with
  | nil => rfl
  | cons kv rest ih =>
    obtain ⟨k, v⟩ := kv
    simp only [Memory.wfFrom, Bool.and_eq_true, decide_eq_true_eq, bne_iff_ne] at h
    simp only [Memory.erase]
    split
    · exact Memory.wfFrom_mono (by omega) (ih h.2)
    · simp only [Memory.wfFrom, Bool.and_eq_true, decide_eq_true_eq, bne_iff_ne]
      exact ⟨h.1, ih h.2⟩

theorem Memory.wfFrom_insert {lo : Nat} {m : List Host.Cell} (h : Memory.wfFrom lo m = true) {a : Nat} (hlo : lo ≤ a)
    (ha : a < 65536) {v : Byte} (hv : v ≠ Memory.unlisted) : Memory.wfFrom lo (Memory.insert m a v) = true := by
  induction m generalizing lo with
  | nil => simp [Memory.insert, Memory.wfFrom, hlo, ha, hv]
  | cons kv rest ih =>
    obtain ⟨k, w⟩ := kv
    simp only [Memory.wfFrom, Bool.and_eq_true, decide_eq_true_eq, bne_iff_ne] at h
    simp only [Memory.insert]
    split
    · simp only [Memory.wfFrom, Bool.and_eq_true, decide_eq_true_eq, bne_iff_ne]
      exact ⟨⟨⟨hlo, ha⟩, hv⟩, ⟨⟨by omega, h.1.1.2⟩, h.1.2⟩, h.2⟩
    · split
      · rename_i hk
        subst hk
        simp only [Memory.wfFrom, Bool.and_eq_true, decide_eq_true_eq, bne_iff_ne]
        exact ⟨⟨⟨hlo, ha⟩, hv⟩, h.2⟩
      · simp only [Memory.wfFrom, Bool.and_eq_true, decide_eq_true_eq, bne_iff_ne]
        exact ⟨h.1, ih h.2 (by omega)⟩

/-- A write inside the address space keeps the canonical form. -/
theorem Memory.wf_write {m : List Host.Cell} (h : Memory.wf m = true) {a : Nat} (ha : a < 65536) (v : Byte) :
    Memory.wf (Memory.write m a v) = true := by
  unfold Memory.write
  split
  · exact Memory.wfFrom_erase h a
  · rename_i hv
    exact Memory.wfFrom_insert h (Nat.zero_le a) ha hv

/-- Placing bytes keeps the canonical form. -/
theorem Memory.wf_place (bs : List Byte) : ∀ {m : List Host.Cell} (a : Addr), Memory.wf m = true →
    Memory.wf (Memory.place m a bs) = true := by
  induction bs with
  | nil => intro m a h; exact h
  | cons b bs ih => intro m a h; exact ih (a + 1) (Memory.wf_write h a.isLt b)

/-- An address below the starting point of a canonical list is unlisted. -/
theorem Memory.read_below {lo a : Nat} (h : a < lo) : ∀ {m : List Host.Cell}, Memory.wfFrom lo m = true →
    Memory.read m a = Memory.unlisted := by
  intro m
  induction m generalizing lo with
  | nil => intro _; rfl
  | cons kv rest ih =>
    obtain ⟨k, v⟩ := kv
    intro hw
    simp only [Memory.wfFrom, Bool.and_eq_true, decide_eq_true_eq, bne_iff_ne] at hw
    have hk : k ≠ a := by omega
    simp only [Memory.read, hk, if_false]
    exact ih (by omega) hw.2

/-- The form is canonical: memories that read alike are the same list. -/
theorem Memory.eq_of_read_eq {m n : List Host.Cell} {lo : Nat} (hm : Memory.wfFrom lo m = true)
    (hn : Memory.wfFrom lo n = true) (h : ∀ a, Memory.read m a = Memory.read n a) : m = n := by
  induction m generalizing n lo with
  | nil =>
    cases n with
    | nil => rfl
    | cons kv rest =>
      obtain ⟨k, v⟩ := kv
      simp only [Memory.wfFrom, Bool.and_eq_true, decide_eq_true_eq, bne_iff_ne] at hn
      have := h k
      simp only [Memory.read, if_true] at this
      exact absurd this.symm hn.1.2
  | cons kv rest ih =>
    obtain ⟨k, v⟩ := kv
    simp only [Memory.wfFrom, Bool.and_eq_true, decide_eq_true_eq, bne_iff_ne] at hm
    cases n with
    | nil =>
      have := h k
      simp only [Memory.read, if_true] at this
      exact absurd this hm.1.2
    | cons lw rest' =>
      obtain ⟨l, w⟩ := lw
      simp only [Memory.wfFrom, Bool.and_eq_true, decide_eq_true_eq, bne_iff_ne] at hn
      have hkl : k = l := by
        rcases Nat.lt_trichotomy k l with hlt | heq | hgt
        · have := h k
          have hne : l ≠ k := by omega
          simp only [Memory.read, if_true, hne, if_false] at this
          rw [Memory.read_below (lo := l + 1) (by omega) hn.2] at this
          exact absurd this hm.1.2
        · exact heq
        · have := h l
          have hne : k ≠ l := by omega
          simp only [Memory.read, if_true, hne, if_false] at this
          rw [Memory.read_below (lo := k + 1) (by omega) hm.2] at this
          exact absurd this.symm hn.1.2
      subst hkl
      have hv : v = w := by simpa [Memory.read] using h k
      subst hv
      have hrest : rest = rest' := by
        refine ih hm.2 hn.2 fun a => ?_
        by_cases hka : k = a
        · subst hka
          rw [Memory.read_below (by omega) hm.2, Memory.read_below (by omega) hn.2]
        · simpa [Memory.read, hka] using h a
      rw [hrest]

end Sys2Proof.Machine
end

