-- ==== Sys2Proof/Laws/Bus.lean ====
section
/-! SUPPORT. What each bus, stack and operand operation does, said once: a read changes only the history, a write
changes one byte of memory and the history. -/

namespace Sys2Proof.Machine

/-! ### The bus itself -/

@[simp] theorem Bus.read_fst (b : Bus) (a : Addr) : (b.read a).1 = b.answer a := rfl
@[simp] theorem Bus.read_mem (b : Bus) (a : Addr) : (b.read a).2.mem = b.mem := rfl
@[simp] theorem Bus.read_windows (b : Bus) (a : Addr) : (b.read a).2.windows = b.windows := rfl
@[simp] theorem Bus.read_log (b : Bus) (a : Addr) : (b.read a).2.log = .read a (b.answer a) :: b.log := rfl
@[simp] theorem Bus.write_windows (b : Bus) (a : Addr) (v : Byte) : (b.write a v).windows = b.windows := rfl
@[simp] theorem Bus.write_log (b : Bus) (a : Addr) (v : Byte) : (b.write a v).log = .write a v :: b.log := rfl
@[simp] theorem Bus.write_mem (b : Bus) (a : Addr) (v : Byte) : (b.write a v).mem = b.stored a v := rfl
@[simp] theorem Bus.ownerStore_mem (b : Bus) (a : Addr) (v : Byte) : (b.ownerStore a v).mem = b.stored a v := rfl
@[simp] theorem Bus.ownerStore_windows (b : Bus) (a : Addr) (v : Byte) : (b.ownerStore a v).windows = b.windows := rfl
@[simp] theorem Bus.ownerStore_log (b : Bus) (a : Addr) (v : Byte) :
    (b.ownerStore a v).log = .ownerStore a v :: b.log := rfl
@[simp] theorem Bus.deviceChange_mem (b : Bus) (what : Nat) : (b.deviceChange what).mem = b.mem := rfl
@[simp] theorem Bus.deviceChange_windows (b : Bus) (what : Nat) : (b.deviceChange what).windows = b.windows := rfl
@[simp] theorem Bus.deviceChange_log (b : Bus) (what : Nat) :
    (b.deviceChange what).log = .deviceChange what :: b.log := rfl
@[simp] theorem Bus.inWindow_ownerStore (b : Bus) (a c : Addr) (v : Byte) :
    (b.ownerStore a v).inWindow c = b.inWindow c := rfl
@[simp] theorem Bus.inWindow_deviceChange (b : Bus) (what : Nat) (c : Addr) :
    (b.deviceChange what).inWindow c = b.inWindow c := rfl
@[simp] theorem Bus.inWindow_read (b : Bus) (a c : Addr) : (b.read a).2.inWindow c = b.inWindow c := rfl
@[simp] theorem Bus.inWindow_write (b : Bus) (a c : Addr) (v : Byte) : (b.write a v).inWindow c = b.inWindow c := rfl

/-- In a window the bus answers the free value of its history (R52, R80). -/
theorem Bus.answer_of_window {b : Bus} {a : Addr} (h : b.inWindow a = true) : b.answer a = Config.busAnswer b.log a := by
  simp [Bus.answer, h]

/-- Outside the windows the bus answers with the byte of memory (R52). -/
theorem Bus.answer_of_plain {b : Bus} {a : Addr} (h : b.inWindow a = false) : b.answer a = Memory.read b.mem a.toNat := by
  simp [Bus.answer, h]

/-- The cells after a store through the bus: the byte stored at a plain address, every other byte as it was. -/
theorem Bus.stored_read (b : Bus) (a c : Addr) (v : Byte) :
    Memory.read (b.stored a v) c.toNat
      = if c = a ∧ b.inWindow a = false then v else Memory.read b.mem c.toNat := by
  by_cases hw : b.inWindow a = true
  · simp [Bus.stored, hw]
  · by_cases hc : c = a
    · subst hc
      simp [Bus.stored, hw, Memory.read_write_same]
    · have hne : a.toNat ≠ c.toNat := fun e => hc (BitVec.eq_of_toNat_eq e.symm)
      simp [Bus.stored, hw, hc, Memory.read_write_other _ _ _ _ hne]

/-- A store through the bus keeps memory canonical. -/
theorem Bus.stored_wf {b : Bus} (h : Memory.wf b.mem = true) (a : Addr) (v : Byte) :
    Memory.wf (b.stored a v) = true := by
  unfold Bus.stored
  split
  · exact h
  · exact Memory.wf_write h a.isLt v

/-- A write outside the windows is read back, and leaves every other byte alone. -/
theorem Bus.write_mem_read (b : Bus) (a c : Addr) (v : Byte) :
    Memory.read (b.write a v).mem c.toNat
      = if c = a ∧ b.inWindow a = false then v else Memory.read b.mem c.toNat := Bus.stored_read b a c v

/-- In plain memory a read right after a write of the same address answers the byte written (R51, R88). -/
theorem Bus.answer_write_same (b : Bus) (a : Addr) (v : Byte) (h : b.inWindow a = false) : (b.write a v).answer a = v := by
  rw [Bus.answer_of_plain (by exact h), Bus.write_mem_read]
  simp [h]

/-- In plain memory a write of another address does not change the answer. -/
theorem Bus.answer_write_other (b : Bus) (a c : Addr) (v : Byte) (hne : a ≠ c) (h : b.inWindow c = false) :
    (b.write a v).answer c = b.answer c := by
  rw [Bus.answer_of_plain (by exact h), Bus.answer_of_plain h, Bus.write_mem_read, if_neg]
  rintro ⟨e, _⟩
  exact hne e.symm

/-- In plain memory an earlier read does not change the answer. -/
theorem Bus.answer_read (b : Bus) (a c : Addr) (h : b.inWindow c = false) : (b.read a).2.answer c = b.answer c := by
  rw [Bus.answer_of_plain (by exact h), Bus.answer_of_plain h, Bus.read_mem]

/-- A write keeps memory canonical. -/
theorem Bus.write_wf {b : Bus} (h : Memory.wf b.mem = true) (a : Addr) (v : Byte) :
    Memory.wf (b.write a v).mem = true := Bus.stored_wf h a v

/-! ### Reads through the state: only the log changes -/

@[simp] theorem State.memRead_fst (s : State) (a : Addr) : (s.memRead a).1 = s.bus.answer a := rfl
@[simp] theorem State.memRead_bus (s : State) (a : Addr) : (s.memRead a).2.bus = (s.bus.read a).2 := rfl

@[simp] theorem State.memRead_a (s : State) (c : Addr) : (s.memRead c).2.a = s.a := rfl
@[simp] theorem State.memRead_x (s : State) (c : Addr) : (s.memRead c).2.x = s.x := rfl
@[simp] theorem State.memRead_y (s : State) (c : Addr) : (s.memRead c).2.y = s.y := rfl
@[simp] theorem State.memRead_sp (s : State) (c : Addr) : (s.memRead c).2.sp = s.sp := rfl
@[simp] theorem State.memRead_pc (s : State) (c : Addr) : (s.memRead c).2.pc = s.pc := rfl
@[simp] theorem State.memRead_p (s : State) (c : Addr) : (s.memRead c).2.p = s.p := rfl
@[simp] theorem State.memRead_nmiPending (s : State) (c : Addr) : (s.memRead c).2.nmiPending = s.nmiPending := rfl
@[simp] theorem State.memRead_irqLine (s : State) (c : Addr) : (s.memRead c).2.irqLine = s.irqLine := rfl
@[simp] theorem State.memRead_ic (s : State) (c : Addr) : (s.memRead c).2.ic = s.ic := rfl
@[simp] theorem State.memRead_cycles (s : State) (c : Addr) : (s.memRead c).2.cycles = s.cycles := rfl
@[simp] theorem State.memRead_bus_mem (s : State) (c : Addr) : (s.memRead c).2.bus.mem = s.bus.mem := rfl
@[simp] theorem State.memRead_bus_windows (s : State) (c : Addr) : (s.memRead c).2.bus.windows = s.bus.windows := rfl

@[simp] theorem State.readPair_a (s : State) (c d : Addr) : (s.readPair c d).2.a = s.a := rfl
@[simp] theorem State.readPair_x (s : State) (c d : Addr) : (s.readPair c d).2.x = s.x := rfl
@[simp] theorem State.readPair_y (s : State) (c d : Addr) : (s.readPair c d).2.y = s.y := rfl
@[simp] theorem State.readPair_sp (s : State) (c d : Addr) : (s.readPair c d).2.sp = s.sp := rfl
@[simp] theorem State.readPair_pc (s : State) (c d : Addr) : (s.readPair c d).2.pc = s.pc := rfl
@[simp] theorem State.readPair_p (s : State) (c d : Addr) : (s.readPair c d).2.p = s.p := rfl
@[simp] theorem State.readPair_nmiPending (s : State) (c d : Addr) : (s.readPair c d).2.nmiPending = s.nmiPending := rfl
@[simp] theorem State.readPair_irqLine (s : State) (c d : Addr) : (s.readPair c d).2.irqLine = s.irqLine := rfl
@[simp] theorem State.readPair_ic (s : State) (c d : Addr) : (s.readPair c d).2.ic = s.ic := rfl
@[simp] theorem State.readPair_cycles (s : State) (c d : Addr) : (s.readPair c d).2.cycles = s.cycles := rfl
@[simp] theorem State.readPair_bus_mem (s : State) (c d : Addr) : (s.readPair c d).2.bus.mem = s.bus.mem := rfl
@[simp] theorem State.readPair_bus_windows (s : State) (c d : Addr) : (s.readPair c d).2.bus.windows = s.bus.windows := rfl

@[simp] theorem State.read16_a (s : State) (c : Addr) : (s.read16 c).2.a = s.a := rfl
@[simp] theorem State.read16_x (s : State) (c : Addr) : (s.read16 c).2.x = s.x := rfl
@[simp] theorem State.read16_y (s : State) (c : Addr) : (s.read16 c).2.y = s.y := rfl
@[simp] theorem State.read16_sp (s : State) (c : Addr) : (s.read16 c).2.sp = s.sp := rfl
@[simp] theorem State.read16_pc (s : State) (c : Addr) : (s.read16 c).2.pc = s.pc := rfl
@[simp] theorem State.read16_p (s : State) (c : Addr) : (s.read16 c).2.p = s.p := rfl
@[simp] theorem State.read16_nmiPending (s : State) (c : Addr) : (s.read16 c).2.nmiPending = s.nmiPending := rfl
@[simp] theorem State.read16_irqLine (s : State) (c : Addr) : (s.read16 c).2.irqLine = s.irqLine := rfl
@[simp] theorem State.read16_ic (s : State) (c : Addr) : (s.read16 c).2.ic = s.ic := rfl
@[simp] theorem State.read16_cycles (s : State) (c : Addr) : (s.read16 c).2.cycles = s.cycles := rfl
@[simp] theorem State.read16_bus_mem (s : State) (c : Addr) : (s.read16 c).2.bus.mem = s.bus.mem := rfl
@[simp] theorem State.read16_bus_windows (s : State) (c : Addr) : (s.read16 c).2.bus.windows = s.bus.windows := rfl

@[simp] theorem State.read16Zp_a (s : State) (c : Byte) : (s.read16Zp c).2.a = s.a := rfl
@[simp] theorem State.read16Zp_x (s : State) (c : Byte) : (s.read16Zp c).2.x = s.x := rfl
@[simp] theorem State.read16Zp_y (s : State) (c : Byte) : (s.read16Zp c).2.y = s.y := rfl
@[simp] theorem State.read16Zp_sp (s : State) (c : Byte) : (s.read16Zp c).2.sp = s.sp := rfl
@[simp] theorem State.read16Zp_pc (s : State) (c : Byte) : (s.read16Zp c).2.pc = s.pc := rfl
@[simp] theorem State.read16Zp_p (s : State) (c : Byte) : (s.read16Zp c).2.p = s.p := rfl
@[simp] theorem State.read16Zp_nmiPending (s : State) (c : Byte) : (s.read16Zp c).2.nmiPending = s.nmiPending := rfl
@[simp] theorem State.read16Zp_irqLine (s : State) (c : Byte) : (s.read16Zp c).2.irqLine = s.irqLine := rfl
@[simp] theorem State.read16Zp_ic (s : State) (c : Byte) : (s.read16Zp c).2.ic = s.ic := rfl
@[simp] theorem State.read16Zp_cycles (s : State) (c : Byte) : (s.read16Zp c).2.cycles = s.cycles := rfl
@[simp] theorem State.read16Zp_bus_mem (s : State) (c : Byte) : (s.read16Zp c).2.bus.mem = s.bus.mem := rfl
@[simp] theorem State.read16Zp_bus_windows (s : State) (c : Byte) : (s.read16Zp c).2.bus.windows = s.bus.windows := rfl

@[simp] theorem State.read16JmpBug_a (s : State) (c : Addr) : (s.read16JmpBug c).2.a = s.a := rfl
@[simp] theorem State.read16JmpBug_x (s : State) (c : Addr) : (s.read16JmpBug c).2.x = s.x := rfl
@[simp] theorem State.read16JmpBug_y (s : State) (c : Addr) : (s.read16JmpBug c).2.y = s.y := rfl
@[simp] theorem State.read16JmpBug_sp (s : State) (c : Addr) : (s.read16JmpBug c).2.sp = s.sp := rfl
@[simp] theorem State.read16JmpBug_pc (s : State) (c : Addr) : (s.read16JmpBug c).2.pc = s.pc := rfl
@[simp] theorem State.read16JmpBug_p (s : State) (c : Addr) : (s.read16JmpBug c).2.p = s.p := rfl
@[simp] theorem State.read16JmpBug_nmiPending (s : State) (c : Addr) : (s.read16JmpBug c).2.nmiPending = s.nmiPending := rfl
@[simp] theorem State.read16JmpBug_irqLine (s : State) (c : Addr) : (s.read16JmpBug c).2.irqLine = s.irqLine := rfl
@[simp] theorem State.read16JmpBug_ic (s : State) (c : Addr) : (s.read16JmpBug c).2.ic = s.ic := rfl
@[simp] theorem State.read16JmpBug_cycles (s : State) (c : Addr) : (s.read16JmpBug c).2.cycles = s.cycles := rfl
@[simp] theorem State.read16JmpBug_bus_mem (s : State) (c : Addr) : (s.read16JmpBug c).2.bus.mem = s.bus.mem := rfl
@[simp] theorem State.read16JmpBug_bus_windows (s : State) (c : Addr) : (s.read16JmpBug c).2.bus.windows = s.bus.windows := rfl

/-- `readPair` in full: the two bytes, low first, and the two reads in the log. -/
theorem State.readPair_eq (s : State) (lo hi : Addr) :
    s.readPair lo hi =
      (ofBytes ((s.bus.read lo).2.answer hi) (s.bus.answer lo),
       s.setBus { s.bus with
         log := .read hi ((s.bus.read lo).2.answer hi) :: .read lo (s.bus.answer lo) :: s.bus.log }) := rfl

/-! ### Writes and the stack -/

@[simp] theorem State.memWrite_a (s : State) (c : Addr) (w : Byte) : (s.memWrite c w).a = s.a := rfl
@[simp] theorem State.memWrite_x (s : State) (c : Addr) (w : Byte) : (s.memWrite c w).x = s.x := rfl
@[simp] theorem State.memWrite_y (s : State) (c : Addr) (w : Byte) : (s.memWrite c w).y = s.y := rfl
@[simp] theorem State.memWrite_sp (s : State) (c : Addr) (w : Byte) : (s.memWrite c w).sp = s.sp := rfl
@[simp] theorem State.memWrite_pc (s : State) (c : Addr) (w : Byte) : (s.memWrite c w).pc = s.pc := rfl
@[simp] theorem State.memWrite_p (s : State) (c : Addr) (w : Byte) : (s.memWrite c w).p = s.p := rfl
@[simp] theorem State.memWrite_nmiPending (s : State) (c : Addr) (w : Byte) : (s.memWrite c w).nmiPending = s.nmiPending := rfl
@[simp] theorem State.memWrite_irqLine (s : State) (c : Addr) (w : Byte) : (s.memWrite c w).irqLine = s.irqLine := rfl
@[simp] theorem State.memWrite_ic (s : State) (c : Addr) (w : Byte) : (s.memWrite c w).ic = s.ic := rfl
@[simp] theorem State.memWrite_cycles (s : State) (c : Addr) (w : Byte) : (s.memWrite c w).cycles = s.cycles := rfl
@[simp] theorem State.memWrite_bus (s : State) (c : Addr) (w : Byte) : (s.memWrite c w).bus = s.bus.write c w := rfl

@[simp] theorem State.push_a (s : State) (w : Byte) : (s.push w).a = s.a := rfl
@[simp] theorem State.push_x (s : State) (w : Byte) : (s.push w).x = s.x := rfl
@[simp] theorem State.push_y (s : State) (w : Byte) : (s.push w).y = s.y := rfl
@[simp] theorem State.push_pc (s : State) (w : Byte) : (s.push w).pc = s.pc := rfl
@[simp] theorem State.push_p (s : State) (w : Byte) : (s.push w).p = s.p := rfl
@[simp] theorem State.push_nmiPending (s : State) (w : Byte) : (s.push w).nmiPending = s.nmiPending := rfl
@[simp] theorem State.push_irqLine (s : State) (w : Byte) : (s.push w).irqLine = s.irqLine := rfl
@[simp] theorem State.push_ic (s : State) (w : Byte) : (s.push w).ic = s.ic := rfl
@[simp] theorem State.push_cycles (s : State) (w : Byte) : (s.push w).cycles = s.cycles := rfl
@[simp] theorem State.push_sp (s : State) (w : Byte) : (s.push w).sp = s.sp - 1 := rfl
@[simp] theorem State.push_bus (s : State) (w : Byte) : (s.push w).bus = s.bus.write (stackAddr s.sp) w := rfl

@[simp] theorem State.pull_a (s : State) : s.pull.2.a = s.a := rfl
@[simp] theorem State.pull_x (s : State) : s.pull.2.x = s.x := rfl
@[simp] theorem State.pull_y (s : State) : s.pull.2.y = s.y := rfl
@[simp] theorem State.pull_pc (s : State) : s.pull.2.pc = s.pc := rfl
@[simp] theorem State.pull_p (s : State) : s.pull.2.p = s.p := rfl
@[simp] theorem State.pull_nmiPending (s : State) : s.pull.2.nmiPending = s.nmiPending := rfl
@[simp] theorem State.pull_irqLine (s : State) : s.pull.2.irqLine = s.irqLine := rfl
@[simp] theorem State.pull_ic (s : State) : s.pull.2.ic = s.ic := rfl
@[simp] theorem State.pull_cycles (s : State) : s.pull.2.cycles = s.cycles := rfl
@[simp] theorem State.pull_sp (s : State) : s.pull.2.sp = s.sp + 1 := rfl
@[simp] theorem State.pull_fst (s : State) : s.pull.1 = s.bus.answer (stackAddr (s.sp + 1)) := rfl
@[simp] theorem State.pull_bus (s : State) : s.pull.2.bus = (s.bus.read (stackAddr (s.sp + 1))).2 := rfl

/-! ### Operands -/

@[simp] theorem resolve_a (o : Operand) (s : State) : (resolve o s).2.a = s.a := by cases o <;> rfl
@[simp] theorem resolve_x (o : Operand) (s : State) : (resolve o s).2.x = s.x := by cases o <;> rfl
@[simp] theorem resolve_y (o : Operand) (s : State) : (resolve o s).2.y = s.y := by cases o <;> rfl
@[simp] theorem resolve_sp (o : Operand) (s : State) : (resolve o s).2.sp = s.sp := by cases o <;> rfl
@[simp] theorem resolve_pc (o : Operand) (s : State) : (resolve o s).2.pc = s.pc := by cases o <;> rfl
@[simp] theorem resolve_p (o : Operand) (s : State) : (resolve o s).2.p = s.p := by cases o <;> rfl
@[simp] theorem resolve_nmiPending (o : Operand) (s : State) : (resolve o s).2.nmiPending = s.nmiPending := by cases o <;> rfl
@[simp] theorem resolve_irqLine (o : Operand) (s : State) : (resolve o s).2.irqLine = s.irqLine := by cases o <;> rfl
@[simp] theorem resolve_ic (o : Operand) (s : State) : (resolve o s).2.ic = s.ic := by cases o <;> rfl
@[simp] theorem resolve_cycles (o : Operand) (s : State) : (resolve o s).2.cycles = s.cycles := by cases o <;> rfl
@[simp] theorem resolve_bus_mem (o : Operand) (s : State) : (resolve o s).2.bus.mem = s.bus.mem := by cases o <;> rfl
@[simp] theorem resolve_bus_windows (o : Operand) (s : State) : (resolve o s).2.bus.windows = s.bus.windows := by cases o <;> rfl

@[simp] theorem operandRead_a (r : Target) (s : State) : (operandRead r s).2.a = s.a := by cases r <;> rfl
@[simp] theorem operandRead_x (r : Target) (s : State) : (operandRead r s).2.x = s.x := by cases r <;> rfl
@[simp] theorem operandRead_y (r : Target) (s : State) : (operandRead r s).2.y = s.y := by cases r <;> rfl
@[simp] theorem operandRead_sp (r : Target) (s : State) : (operandRead r s).2.sp = s.sp := by cases r <;> rfl
@[simp] theorem operandRead_pc (r : Target) (s : State) : (operandRead r s).2.pc = s.pc := by cases r <;> rfl
@[simp] theorem operandRead_p (r : Target) (s : State) : (operandRead r s).2.p = s.p := by cases r <;> rfl
@[simp] theorem operandRead_nmiPending (r : Target) (s : State) : (operandRead r s).2.nmiPending = s.nmiPending := by cases r <;> rfl
@[simp] theorem operandRead_irqLine (r : Target) (s : State) : (operandRead r s).2.irqLine = s.irqLine := by cases r <;> rfl
@[simp] theorem operandRead_ic (r : Target) (s : State) : (operandRead r s).2.ic = s.ic := by cases r <;> rfl
@[simp] theorem operandRead_cycles (r : Target) (s : State) : (operandRead r s).2.cycles = s.cycles := by cases r <;> rfl
@[simp] theorem operandRead_bus_mem (r : Target) (s : State) : (operandRead r s).2.bus.mem = s.bus.mem := by cases r <;> rfl
@[simp] theorem operandRead_bus_windows (r : Target) (s : State) : (operandRead r s).2.bus.windows = s.bus.windows := by cases r <;> rfl

@[simp] theorem operandWrite_x (r : Target) (w : Byte) (s : State) : (operandWrite r w s).x = s.x := by cases r <;> rfl
@[simp] theorem operandWrite_y (r : Target) (w : Byte) (s : State) : (operandWrite r w s).y = s.y := by cases r <;> rfl
@[simp] theorem operandWrite_sp (r : Target) (w : Byte) (s : State) : (operandWrite r w s).sp = s.sp := by cases r <;> rfl
@[simp] theorem operandWrite_pc (r : Target) (w : Byte) (s : State) : (operandWrite r w s).pc = s.pc := by cases r <;> rfl
@[simp] theorem operandWrite_p (r : Target) (w : Byte) (s : State) : (operandWrite r w s).p = s.p := by cases r <;> rfl
@[simp] theorem operandWrite_nmiPending (r : Target) (w : Byte) (s : State) : (operandWrite r w s).nmiPending = s.nmiPending := by cases r <;> rfl
@[simp] theorem operandWrite_irqLine (r : Target) (w : Byte) (s : State) : (operandWrite r w s).irqLine = s.irqLine := by cases r <;> rfl
@[simp] theorem operandWrite_ic (r : Target) (w : Byte) (s : State) : (operandWrite r w s).ic = s.ic := by cases r <;> rfl
@[simp] theorem operandWrite_cycles (r : Target) (w : Byte) (s : State) : (operandWrite r w s).cycles = s.cycles := by cases r <;> rfl
@[simp] theorem operandWrite_bus_windows (r : Target) (w : Byte) (s : State) : (operandWrite r w s).bus.windows = s.bus.windows := by cases r <;> rfl

end Sys2Proof.Machine
end

