-- ==== Sys2Proof/Laws/PerInstr.lean ====
section
/-! SUPPORT. Statements made once per instruction. The family `Rows`: the dispatch table has a row for exactly the
well-formed forms of the instruction, so `Instr.wf`, written from the rules' operand lines, and `dispatch`, written from
the opcode tables, agree. -/

namespace Sys2Proof.Laws.Rows

/-- The dispatch table has a row for the instruction exactly when it is well formed (`30_encoding.md` R99). -/
def Statement (i : Instr) : Prop := (dispatch i).isSome = i.wf

theorem lda (r : Operand) : Statement (.lda r) := by cases r <;> rfl
theorem ldx (r : Operand) : Statement (.ldx r) := by cases r <;> rfl
theorem ldy (r : Operand) : Statement (.ldy r) := by cases r <;> rfl
theorem sta (r : Operand) : Statement (.sta r) := by cases r <;> rfl
theorem stx (r : Operand) : Statement (.stx r) := by cases r <;> rfl
theorem sty (r : Operand) : Statement (.sty r) := by cases r <;> rfl
theorem tax : Statement .tax := rfl
theorem tay : Statement .tay := rfl
theorem txa : Statement .txa := rfl
theorem tya : Statement .tya := rfl
theorem tsx : Statement .tsx := rfl
theorem txs : Statement .txs := rfl
theorem inc (r : Operand) : Statement (.inc r) := by cases r <;> rfl
theorem inx : Statement .inx := rfl
theorem iny : Statement .iny := rfl
theorem dec (r : Operand) : Statement (.dec r) := by cases r <;> rfl
theorem dex : Statement .dex := rfl
theorem dey : Statement .dey := rfl
theorem adc (r : Operand) : Statement (.adc r) := by cases r <;> rfl
theorem sbc (r : Operand) : Statement (.sbc r) := by cases r <;> rfl
theorem cmp (r : Operand) : Statement (.cmp r) := by cases r <;> rfl
theorem cpx (r : Operand) : Statement (.cpx r) := by cases r <;> rfl
theorem cpy (r : Operand) : Statement (.cpy r) := by cases r <;> rfl
theorem and (r : Operand) : Statement (.and r) := by cases r <;> rfl
theorem ora (r : Operand) : Statement (.ora r) := by cases r <;> rfl
theorem eor (r : Operand) : Statement (.eor r) := by cases r <;> rfl
theorem bit (r : Operand) : Statement (.bit r) := by cases r <;> rfl
theorem asl (r : Operand) : Statement (.asl r) := by cases r <;> rfl
theorem lsr (r : Operand) : Statement (.lsr r) := by cases r <;> rfl
theorem rol (r : Operand) : Statement (.rol r) := by cases r <;> rfl
theorem ror (r : Operand) : Statement (.ror r) := by cases r <;> rfl
theorem bcc (rr : Byte) : Statement (.bcc rr) := rfl
theorem bcs (rr : Byte) : Statement (.bcs rr) := rfl
theorem beq (rr : Byte) : Statement (.beq rr) := rfl
theorem bne (rr : Byte) : Statement (.bne rr) := rfl
theorem bmi (rr : Byte) : Statement (.bmi rr) := rfl
theorem bpl (rr : Byte) : Statement (.bpl rr) := rfl
theorem bvc (rr : Byte) : Statement (.bvc rr) := rfl
theorem bvs (rr : Byte) : Statement (.bvs rr) := rfl
theorem jmp (r : Operand) : Statement (.jmp r) := by cases r <;> rfl
theorem jsr (hhll : Addr) : Statement (.jsr hhll) := rfl
theorem rts : Statement .rts := rfl
theorem pha : Statement .pha := rfl
theorem pla : Statement .pla := rfl
theorem php : Statement .php := rfl
theorem plp : Statement .plp := rfl
theorem clc : Statement .clc := rfl
theorem sec : Statement .sec := rfl
theorem cld : Statement .cld := rfl
theorem sed : Statement .sed := rfl
theorem cli : Statement .cli := rfl
theorem sei : Statement .sei := rfl
theorem clv : Statement .clv := rfl
theorem brk : Statement .brk := rfl
theorem rti : Statement .rti := rfl
theorem nop : Statement .nop := rfl
theorem undoc (opc : Byte) : Statement (.undoc opc) := by
  by_cases h : undocumentedOpcodes.contains opc = true <;> simp only [Statement, dispatch, Instr.wf, h] <;> rfl

end Sys2Proof.Laws.Rows
end

