-- ==== Sys2Proof/Laws/Exec.lean ====
section
/-! SUPPORT. What `exec` can do, said once: a well-formed instruction runs its row of the dispatch table with its own
semantics and gives a next state; any other term is refused. -/

namespace Sys2Proof.Machine

/-- `hh:ll` is `hh * 256 + ll` (R7). -/
theorem ofBytes_toNat (hh ll : Byte) : (ofBytes hh ll).toNat = hh.toNat * 256 + ll.toNat := by
  have h := BitVec.toNat_append hh ll
  rw [← Nat.shiftLeft_add_eq_or_of_lt ll.isLt, Nat.shiftLeft_eq] at h
  exact h

/-- Taking an address apart and putting it together again gives it back. -/
@[simp] theorem ofBytes_hi_lo (w : Addr) : ofBytes (hiByte w) (loByte w) = w := by
  apply BitVec.eq_of_toNat_eq
  rw [ofBytes_toNat]
  simp only [hiByte, loByte, BitVec.extractLsb'_toNat, Nat.shiftRight_eq_div_pow]
  omega

@[simp] theorem loByte_ofBytes (hh ll : Byte) : loByte (ofBytes hh ll) = ll := by
  have h : (ofBytes hh ll).toNat = hh.toNat * 256 + ll.toNat := ofBytes_toNat hh ll
  apply BitVec.eq_of_toNat_eq
  simp only [loByte, BitVec.extractLsb'_toNat, h]
  omega

@[simp] theorem hiByte_ofBytes (hh ll : Byte) : hiByte (ofBytes hh ll) = hh := by
  have h : (ofBytes hh ll).toNat = hh.toNat * 256 + ll.toNat := ofBytes_toNat hh ll
  apply BitVec.eq_of_toNat_eq
  simp only [hiByte, BitVec.extractLsb'_toNat, h, Nat.shiftRight_eq_div_pow]
  omega

/-- The semantics of each instruction, as its meaning passes it to `runInstr`. -/
def semOf : Instr → Sem
  | .lda _ => plainSem (load State.setA)
  | .ldx _ => plainSem (load State.setX)
  | .ldy _ => plainSem (load State.setY)
  | .sta _ => plainSem (store State.a)
  | .stx _ => plainSem (store State.x)
  | .sty _ => plainSem (store State.y)
  | .tax => plainSem fun _ s => transfer State.setX State.a s
  | .tay => plainSem fun _ s => transfer State.setY State.a s
  | .txa => plainSem fun _ s => transfer State.setA State.x s
  | .tya => plainSem fun _ s => transfer State.setA State.y s
  | .tsx => plainSem fun _ s => transfer State.setX State.sp s
  | .txs => plainSem fun _ s => s.setSp s.x
  | .inc _ => plainSem (modifyByte inc8)
  | .inx => plainSem fun _ s => bump State.setX State.x inc8 s
  | .iny => plainSem fun _ s => bump State.setY State.y inc8 s
  | .dec _ => plainSem (modifyByte dec8)
  | .dex => plainSem fun _ s => bump State.setX State.x dec8 s
  | .dey => plainSem fun _ s => bump State.setY State.y dec8 s
  | .adc _ => plainSem (addToA id)
  | .sbc _ => plainSem (addToA fun m => ~~~m)
  | .cmp _ => plainSem (compareWith State.a)
  | .cpx _ => plainSem (compareWith State.x)
  | .cpy _ => plainSem (compareWith State.y)
  | .and _ => plainSem (logicToA fun a m => a &&& m)
  | .ora _ => plainSem (logicToA fun a m => a ||| m)
  | .eor _ => plainSem (logicToA fun a m => a ^^^ m)
  | .bit _ => plainSem bitTest
  | .asl _ => plainSem (shift aslFn)
  | .lsr _ => plainSem (shift lsrFn)
  | .rol _ => plainSem (shift rolFn)
  | .ror _ => plainSem (shift rorFn)
  | .bcc _ => branch fun s => !s.p.c
  | .bcs _ => branch fun s => s.p.c
  | .beq _ => branch fun s => s.p.z
  | .bne _ => branch fun s => !s.p.z
  | .bmi _ => branch fun s => s.p.n
  | .bpl _ => branch fun s => !s.p.n
  | .bvc _ => branch fun s => !s.p.v
  | .bvs _ => branch fun s => s.p.v
  | .jmp _ => plainSem jumpTo
  | .jsr _ => plainSem callSub
  | .rts => plainSem fun _ s => returnSub s
  | .pha => plainSem fun _ s => s.push s.a
  | .pla => plainSem fun _ s => pullA s
  | .php => plainSem fun _ s => s.push (s.p.pack true)
  | .plp => plainSem fun _ s => s.pullStatus
  | .clc => plainSem fun _ s => s.setP { s.p with c := false }
  | .sec => plainSem fun _ s => s.setP { s.p with c := true }
  | .cld => plainSem fun _ s => s.setP { s.p with d := false }
  | .sed => plainSem fun _ s => s.setP { s.p with d := true }
  | .cli => plainSem fun _ s => s.setP { s.p with i := false }
  | .sei => plainSem fun _ s => s.setP { s.p with i := true }
  | .clv => plainSem fun _ s => s.setP { s.p with v := false }
  | .brk => plainSem fun _ s => s.enterInterrupt .brk
  | .rti => plainSem fun _ s => s.returnFromInterrupt
  | .nop => plainSem fun _ s => s
  | .undoc _ => plainSem fun _ s => s

/-- The mnemonic each meaning refuses an absent form by. -/
def mnemonicOf : Instr → String
  | .lda _ => "LDA"
  | .ldx _ => "LDX"
  | .ldy _ => "LDY"
  | .sta _ => "STA"
  | .stx _ => "STX"
  | .sty _ => "STY"
  | .tax => "TAX"
  | .tay => "TAY"
  | .txa => "TXA"
  | .tya => "TYA"
  | .tsx => "TSX"
  | .txs => "TXS"
  | .inc _ => "INC"
  | .inx => "INX"
  | .iny => "INY"
  | .dec _ => "DEC"
  | .dex => "DEX"
  | .dey => "DEY"
  | .adc _ => "ADC"
  | .sbc _ => "SBC"
  | .cmp _ => "CMP"
  | .cpx _ => "CPX"
  | .cpy _ => "CPY"
  | .and _ => "AND"
  | .ora _ => "ORA"
  | .eor _ => "EOR"
  | .bit _ => "BIT"
  | .asl _ => "ASL"
  | .lsr _ => "LSR"
  | .rol _ => "ROL"
  | .ror _ => "ROR"
  | .bcc _ => "BCC"
  | .bcs _ => "BCS"
  | .beq _ => "BEQ"
  | .bne _ => "BNE"
  | .bmi _ => "BMI"
  | .bpl _ => "BPL"
  | .bvc _ => "BVC"
  | .bvs _ => "BVS"
  | .jmp _ => "JMP"
  | .jsr _ => "JSR"
  | .rts => "RTS"
  | .pha => "PHA"
  | .pla => "PLA"
  | .php => "PHP"
  | .plp => "PLP"
  | .clc => "CLC"
  | .sec => "SEC"
  | .cld => "CLD"
  | .sed => "SED"
  | .cli => "CLI"
  | .sei => "SEI"
  | .clv => "CLV"
  | .brk => "BRK"
  | .rti => "RTI"
  | .nop => "NOP"
  | .undoc _ => "UNDOC"

/-- Every arm of `exec` runs its instruction's row with its semantics. -/
theorem exec_eq (i : Instr) (s : State) : exec i s = runInstr (mnemonicOf i) i (semOf i) s := by
  cases i <;> rfl

/-- The dispatch table has a row for exactly the well-formed instructions (R99). -/
theorem dispatch_isSome (i : Instr) : (dispatch i).isSome = i.wf := by
  cases i with
  | lda r => exact Laws.Rows.lda r
  | ldx r => exact Laws.Rows.ldx r
  | ldy r => exact Laws.Rows.ldy r
  | sta r => exact Laws.Rows.sta r
  | stx r => exact Laws.Rows.stx r
  | sty r => exact Laws.Rows.sty r
  | tax => exact Laws.Rows.tax
  | tay => exact Laws.Rows.tay
  | txa => exact Laws.Rows.txa
  | tya => exact Laws.Rows.tya
  | tsx => exact Laws.Rows.tsx
  | txs => exact Laws.Rows.txs
  | inc r => exact Laws.Rows.inc r
  | inx => exact Laws.Rows.inx
  | iny => exact Laws.Rows.iny
  | dec r => exact Laws.Rows.dec r
  | dex => exact Laws.Rows.dex
  | dey => exact Laws.Rows.dey
  | adc r => exact Laws.Rows.adc r
  | sbc r => exact Laws.Rows.sbc r
  | cmp r => exact Laws.Rows.cmp r
  | cpx r => exact Laws.Rows.cpx r
  | cpy r => exact Laws.Rows.cpy r
  | and r => exact Laws.Rows.and r
  | ora r => exact Laws.Rows.ora r
  | eor r => exact Laws.Rows.eor r
  | bit r => exact Laws.Rows.bit r
  | asl r => exact Laws.Rows.asl r
  | lsr r => exact Laws.Rows.lsr r
  | rol r => exact Laws.Rows.rol r
  | ror r => exact Laws.Rows.ror r
  | bcc rr => exact Laws.Rows.bcc rr
  | bcs rr => exact Laws.Rows.bcs rr
  | beq rr => exact Laws.Rows.beq rr
  | bne rr => exact Laws.Rows.bne rr
  | bmi rr => exact Laws.Rows.bmi rr
  | bpl rr => exact Laws.Rows.bpl rr
  | bvc rr => exact Laws.Rows.bvc rr
  | bvs rr => exact Laws.Rows.bvs rr
  | jmp r => exact Laws.Rows.jmp r
  | jsr hhll => exact Laws.Rows.jsr hhll
  | rts => exact Laws.Rows.rts
  | pha => exact Laws.Rows.pha
  | pla => exact Laws.Rows.pla
  | php => exact Laws.Rows.php
  | plp => exact Laws.Rows.plp
  | clc => exact Laws.Rows.clc
  | sec => exact Laws.Rows.sec
  | cld => exact Laws.Rows.cld
  | sed => exact Laws.Rows.sed
  | cli => exact Laws.Rows.cli
  | sei => exact Laws.Rows.sei
  | clv => exact Laws.Rows.clv
  | brk => exact Laws.Rows.brk
  | rti => exact Laws.Rows.rti
  | nop => exact Laws.Rows.nop
  | undoc opc => exact Laws.Rows.undoc opc

/-- A well-formed instruction gives the next state its row gives. -/
theorem exec_of_row {i : Instr} {e : Row} (h : dispatch i = some e) (s : State) :
    exec i s = .next (runRow e i.operand (semOf i) s) := by
  rw [exec_eq, runInstr, h]

theorem row_of_wf {i : Instr} (h : i.wf = true) : ∃ e, dispatch i = some e := by
  rw [← dispatch_isSome] at h
  exact Option.isSome_iff_exists.mp h

/-- Inversion of `exec`: a next state is the one the instruction's row gives. -/
theorem exec_next_inv {i : Instr} {s t : State} (h : exec i s = .next t) :
    ∃ e, dispatch i = some e ∧ t = runRow e i.operand (semOf i) s := by
  rw [exec_eq, runInstr] at h
  split at h
  · rename_i e he
    exact ⟨e, he, by cases h; rfl⟩
  · cases h

/-- A term with no row is refused by name. -/
theorem exec_of_not_wf {i : Instr} (h : i.wf = false) (s : State) :
    exec i s = .refused (.noSuchForm (mnemonicOf i)) := by
  have hn : dispatch i = none := by
    rw [← dispatch_isSome] at h
    simpa using h
  rw [exec_eq, runInstr, hn]

/-- Every byte decodes to a well-formed instruction (R99). -/
theorem decodeOpcode_wf (opc b : Byte) (w : Addr) : (decodeOpcode opc b w).wf = true := by
  obtain ⟨k⟩ := opc
  fin_cases k <;> rfl

/-- The opcode alone decides how many operand bytes an instruction has (R90, R96). -/
theorem decodeOpcode_byteCount (opc b : Byte) (w : Addr) :
    (decodeOpcode opc b w).operand.byteCount = operandBytesOf opc := by
  unfold operandBytesOf decodeOpcode
  split <;> rfl

/-- An instruction has at most two operand bytes (R90). -/
theorem operandBytesOf_le (opc : Byte) : operandBytesOf opc ≤ 2 := by
  unfold operandBytesOf
  generalize (decodeOpcode opc 0 0).operand = o
  cases o <;> simp [Operand.byteCount]

/-- The instruction a fetch gives is well formed. -/
theorem fetchInstr_wf (s : State) : s.fetchInstr.1.wf = true := by
  unfold State.fetchInstr
  simp only
  split <;> exact decodeOpcode_wf _ _ _

/-- `fetch8` in full. -/
theorem State.fetch8_eq (s : State) :
    s.fetch8 = (s.bus.answer s.pc,
      { s with pc := s.pc + 1, bus := { s.bus with log := .read s.pc (s.bus.answer s.pc) :: s.bus.log } }) := rfl

/-- What a fetch does: the bytes answered from PC on decode to the instruction, each is read once, in order, PC moves past
them, and nothing else changes (R55, R103); a byte of plain memory is the one memory holds. -/
theorem fetchInstr_spec (s : State) : ∃ bytes : List Byte,
    decode bytes = .instr s.fetchInstr.1 [] ∧ bytes.length = s.fetchInstr.1.size ∧
    (∀ k v, bytes[k]? = some v → s.bus.inWindow (s.pc + BitVec.ofNat 16 k) = false →
      v = s.byteAt (s.pc + BitVec.ofNat 16 k)) ∧
    s.fetchInstr.2 = { s with
      pc := s.pc + BitVec.ofNat 16 s.fetchInstr.1.size,
      bus := { s.bus with
        log := (bytes.zipIdx.map fun b => BusEvent.read (s.pc + BitVec.ofNat 16 b.2) b.1).reverse ++ s.bus.log } } := by
  have e2 : s.pc + BitVec.ofNat 16 2 = s.pc + 1 + 1 := by rw [BitVec.add_assoc]; rfl
  have e3 : s.pc + BitVec.ofNat 16 3 = s.pc + 1 + 1 + 1 := by rw [BitVec.add_assoc, BitVec.add_assoc]; rfl
  have e0 : s.pc + BitVec.ofNat 16 0 = s.pc := BitVec.add_zero _
  have e1 : s.pc + BitVec.ofNat 16 1 = s.pc + 1 := rfl
  unfold State.fetchInstr
  simp only [Instr.size]
  split
  · rename_i h
    refine ⟨[s.fetch8.1], by simp only [decode, h], by rw [decodeOpcode_byteCount, h]; rfl, ?_, ?_⟩
    · rintro (_ | _) v hv hw
      · cases hv; rw [e0] at hw ⊢; exact Bus.answer_of_plain hw
      · cases hv
    · rw [decodeOpcode_byteCount, h]
      simp only [List.zipIdx_cons, List.zipIdx_nil, List.map_cons, List.map_nil, List.reverse_singleton, e0]
      rfl
  · rename_i h
    refine ⟨[s.fetch8.1, s.fetch8.2.fetch8.1], by simp only [decode, h], by rw [decodeOpcode_byteCount, h]; rfl, ?_, ?_⟩
    · rintro (_ | _ | _) v hv hw
      · cases hv; rw [e0] at hw ⊢; exact Bus.answer_of_plain hw
      · cases hv; exact Bus.answer_of_plain (b := s.fetch8.2.bus) hw
      · cases hv
    · rw [decodeOpcode_byteCount, h, e2]
      simp only [List.zipIdx_cons, List.zipIdx_nil, List.map_cons, List.map_nil, e0]
      rfl
  · rename_i h0 h1
    have h2 : operandBytesOf s.fetch8.1 = 2 := by
      have := operandBytesOf_le s.fetch8.1
      have : operandBytesOf s.fetch8.1 ≠ 0 := h0
      have : operandBytesOf s.fetch8.1 ≠ 1 := h1
      omega
    refine ⟨[s.fetch8.1, s.fetch8.2.fetch8.1, s.fetch8.2.fetch8.2.fetch8.1], by simp only [decode, h2]; rfl,
      by rw [decodeOpcode_byteCount, h2]; rfl, ?_, ?_⟩
    · rintro (_ | _ | _ | _) v hv hw
      · cases hv; rw [e0] at hw ⊢; exact Bus.answer_of_plain hw
      · cases hv; exact Bus.answer_of_plain (b := s.fetch8.2.bus) hw
      · cases hv
        rw [show s.pc + BitVec.ofNat 16 (0 + 1 + 1) = s.pc + 1 + 1 from e2] at hw ⊢
        exact Bus.answer_of_plain (b := s.fetch8.2.fetch8.2.bus) hw
      · cases hv
    · rw [decodeOpcode_byteCount, h2, e3]
      simp only [List.zipIdx_cons, List.zipIdx_nil, List.map_cons, List.map_nil, e0,
        show s.pc + BitVec.ofNat 16 (0 + 1 + 1) = s.pc + 1 + 1 from e2]
      rfl

end Sys2Proof.Machine
end

