-- ==== Sys2Proof/Laws/Step.lean ====
section
/-! SUPPORT. What running a row, entering an event, returning from one and a reset do to each field; and the inversion of
`step`. -/

namespace Sys2Proof.Machine

/-! ### A row of the dispatch table -/

@[simp] theorem runRow_a (e : Row) (o : Operand) (sem : Sem) (s : State) :
    (runRow e o sem s).a = (sem (resolve o s).1 (resolve o s).2).1.a := rfl
@[simp] theorem runRow_x (e : Row) (o : Operand) (sem : Sem) (s : State) :
    (runRow e o sem s).x = (sem (resolve o s).1 (resolve o s).2).1.x := rfl
@[simp] theorem runRow_y (e : Row) (o : Operand) (sem : Sem) (s : State) :
    (runRow e o sem s).y = (sem (resolve o s).1 (resolve o s).2).1.y := rfl
@[simp] theorem runRow_sp (e : Row) (o : Operand) (sem : Sem) (s : State) :
    (runRow e o sem s).sp = (sem (resolve o s).1 (resolve o s).2).1.sp := rfl
@[simp] theorem runRow_pc (e : Row) (o : Operand) (sem : Sem) (s : State) :
    (runRow e o sem s).pc = (sem (resolve o s).1 (resolve o s).2).1.pc := rfl
@[simp] theorem runRow_p (e : Row) (o : Operand) (sem : Sem) (s : State) :
    (runRow e o sem s).p = (sem (resolve o s).1 (resolve o s).2).1.p := rfl
@[simp] theorem runRow_nmiPending (e : Row) (o : Operand) (sem : Sem) (s : State) :
    (runRow e o sem s).nmiPending = (sem (resolve o s).1 (resolve o s).2).1.nmiPending := rfl
@[simp] theorem runRow_irqLine (e : Row) (o : Operand) (sem : Sem) (s : State) :
    (runRow e o sem s).irqLine = (sem (resolve o s).1 (resolve o s).2).1.irqLine := rfl
@[simp] theorem runRow_ic (e : Row) (o : Operand) (sem : Sem) (s : State) :
    (runRow e o sem s).ic = (sem (resolve o s).1 (resolve o s).2).1.ic := rfl
@[simp] theorem runRow_bus (e : Row) (o : Operand) (sem : Sem) (s : State) :
    (runRow e o sem s).bus = (sem (resolve o s).1 (resolve o s).2).1.bus := rfl

theorem runRow_cycles (e : Row) (o : Operand) (sem : Sem) (s : State) :
    (runRow e o sem s).cycles = (sem (resolve o s).1 (resolve o s).2).1.cycles
      + (e.base + (if e.pen && (resolve o s).1.crossed then 1 else 0) + (sem (resolve o s).1 (resolve o s).2).2) := rfl

/-! ### The stack address and the status byte as numbers -/

/-- `stack_addr(sp)` is 256 + sp (R61). -/
theorem stackAddr_eq (sp : Byte) : stackAddr sp = BitVec.ofNat 16 (256 + sp.toNat) := by
  obtain ⟨k⟩ := sp
  revert k
  set_option maxRecDepth 100000 in decide

/-- Different stack pointers designate different stack bytes. -/
theorem stackAddr_injective {a b : Byte} (h : stackAddr a = stackAddr b) : a = b := by
  rw [stackAddr_eq, stackAddr_eq] at h
  have h' := congrArg BitVec.toNat h
  simp only [BitVec.toNat_ofNat] at h'
  apply BitVec.eq_of_toNat_eq
  omega

/-- The unpacked flags of a packed status byte are the flags, B the packed bit (R37, R38). -/
@[simp] theorem Flags.unpack_pack (p : Flags) (b : Bool) : Flags.unpack (p.pack b) = { p with b := b } := by
  cases p
  simp only [Flags.unpack, Flags.mk.injEq]
  decide +revert

/-! ### Two-byte stack operations -/

@[simp] theorem State.pushWord_a (s : State) (w : Addr) : (s.pushWord w).a = s.a := rfl
@[simp] theorem State.pushWord_x (s : State) (w : Addr) : (s.pushWord w).x = s.x := rfl
@[simp] theorem State.pushWord_y (s : State) (w : Addr) : (s.pushWord w).y = s.y := rfl
@[simp] theorem State.pushWord_pc (s : State) (w : Addr) : (s.pushWord w).pc = s.pc := rfl
@[simp] theorem State.pushWord_p (s : State) (w : Addr) : (s.pushWord w).p = s.p := rfl
@[simp] theorem State.pushWord_nmiPending (s : State) (w : Addr) : (s.pushWord w).nmiPending = s.nmiPending := rfl
@[simp] theorem State.pushWord_irqLine (s : State) (w : Addr) : (s.pushWord w).irqLine = s.irqLine := rfl
@[simp] theorem State.pushWord_ic (s : State) (w : Addr) : (s.pushWord w).ic = s.ic := rfl
@[simp] theorem State.pushWord_cycles (s : State) (w : Addr) : (s.pushWord w).cycles = s.cycles := rfl
@[simp] theorem State.pushWord_bus_windows (s : State) (w : Addr) : (s.pushWord w).bus.windows = s.bus.windows := rfl
@[simp] theorem State.pullWord_a (s : State) : s.pullWord.2.a = s.a := rfl
@[simp] theorem State.pullWord_x (s : State) : s.pullWord.2.x = s.x := rfl
@[simp] theorem State.pullWord_y (s : State) : s.pullWord.2.y = s.y := rfl
@[simp] theorem State.pullWord_pc (s : State) : s.pullWord.2.pc = s.pc := rfl
@[simp] theorem State.pullWord_p (s : State) : s.pullWord.2.p = s.p := rfl
@[simp] theorem State.pullWord_nmiPending (s : State) : s.pullWord.2.nmiPending = s.nmiPending := rfl
@[simp] theorem State.pullWord_irqLine (s : State) : s.pullWord.2.irqLine = s.irqLine := rfl
@[simp] theorem State.pullWord_ic (s : State) : s.pullWord.2.ic = s.ic := rfl
@[simp] theorem State.pullWord_cycles (s : State) : s.pullWord.2.cycles = s.cycles := rfl
@[simp] theorem State.pullWord_bus_windows (s : State) : s.pullWord.2.bus.windows = s.bus.windows := rfl
@[simp] theorem State.pullWord_bus_mem (s : State) : s.pullWord.2.bus.mem = s.bus.mem := rfl
@[simp] theorem State.pullStatus_a (s : State) : s.pullStatus.a = s.a := rfl
@[simp] theorem State.pullStatus_x (s : State) : s.pullStatus.x = s.x := rfl
@[simp] theorem State.pullStatus_y (s : State) : s.pullStatus.y = s.y := rfl
@[simp] theorem State.pullStatus_pc (s : State) : s.pullStatus.pc = s.pc := rfl
@[simp] theorem State.pullStatus_nmiPending (s : State) : s.pullStatus.nmiPending = s.nmiPending := rfl
@[simp] theorem State.pullStatus_irqLine (s : State) : s.pullStatus.irqLine = s.irqLine := rfl
@[simp] theorem State.pullStatus_ic (s : State) : s.pullStatus.ic = s.ic := rfl
@[simp] theorem State.pullStatus_cycles (s : State) : s.pullStatus.cycles = s.cycles := rfl
@[simp] theorem State.pullStatus_bus_windows (s : State) : s.pullStatus.bus.windows = s.bus.windows := rfl
@[simp] theorem State.pullStatus_bus_mem (s : State) : s.pullStatus.bus.mem = s.bus.mem := rfl
@[simp] theorem State.pushWord_sp (s : State) (w : Addr) : (s.pushWord w).sp = s.sp - 1 - 1 := rfl
@[simp] theorem State.pullWord_sp (s : State) : s.pullWord.2.sp = s.sp + 1 + 1 := rfl
@[simp] theorem State.pullStatus_sp (s : State) : s.pullStatus.sp = s.sp + 1 := rfl
@[simp] theorem State.pullStatus_p (s : State) : s.pullStatus.p = Flags.unpack s.pull.1 := rfl

/-- The word a two-byte pull gives: its low byte is the first one pulled (R222, R248). -/
@[simp] theorem State.pullWord_fst (s : State) : s.pullWord.1 =
    ofBytes ((s.bus.read (stackAddr (s.sp + 1))).2.answer (stackAddr (s.sp + 1 + 1)))
      (s.bus.answer (stackAddr (s.sp + 1))) := rfl

theorem State.pullWord_bus (s : State) : s.pullWord.2.bus =
    ((s.bus.read (stackAddr (s.sp + 1))).2.read (stackAddr (s.sp + 1 + 1))).2 := rfl

theorem State.pushWord_bus (s : State) (w : Addr) : (s.pushWord w).bus =
    (s.bus.write (stackAddr s.sp) (hiByte w)).write (stackAddr (s.sp - 1)) (loByte w) := rfl

theorem State.pullStatus_bus (s : State) : s.pullStatus.bus = (s.bus.read (stackAddr (s.sp + 1))).2 := rfl

/-- In plain memory a pull right after a push gives the byte pushed and the stack pointer back (R62, R63). -/
theorem State.pull_push (s : State) (v : Byte) (h : s.bus.inWindow (stackAddr s.sp) = false) :
    (s.push v).pull.1 = v ∧ (s.push v).pull.2.sp = s.sp := by
  simp [Bus.answer_write_same, h]

/-- In plain memory a two-byte pull right after a two-byte push gives the word pushed and the stack pointer back. -/
theorem State.pullWord_pushWord (s : State) (w : Addr) (h : s.bus.inWindow (stackAddr s.sp) = false)
    (h' : s.bus.inWindow (stackAddr (s.sp - 1)) = false) :
    (s.pushWord w).pullWord.1 = w ∧ (s.pushWord w).pullWord.2.sp = s.sp := by
  have e : ∀ v : Byte, v - 1 + 1 = v := fun v => BitVec.sub_add_cancel _ _
  have hne : stackAddr (s.sp - 1) ≠ stackAddr s.sp := fun hc => by
    have hb := stackAddr_injective hc
    have ht := congrArg BitVec.toNat hb
    have hl := s.sp.isLt
    simp [BitVec.toNat_sub] at ht
    omega
  refine ⟨?_, ?_⟩
  · rw [State.pullWord_fst, State.pushWord_bus, State.pushWord_sp, e, e, Bus.answer_write_same _ _ _ (by exact h'),
      Bus.answer_read _ _ _ (by exact h), Bus.answer_write_other _ _ _ _ hne (by exact h),
      Bus.answer_write_same _ _ _ h, ofBytes_hi_lo]
  · rw [State.pullWord_sp, State.pushWord_sp, e, e]

/-! ### Returning from an interrupt (R248) -/

@[simp] theorem State.returnFromInterrupt_a (s : State) : s.returnFromInterrupt.a = s.a := by
  simp [State.returnFromInterrupt]
@[simp] theorem State.returnFromInterrupt_x (s : State) : s.returnFromInterrupt.x = s.x := by
  simp [State.returnFromInterrupt]
@[simp] theorem State.returnFromInterrupt_y (s : State) : s.returnFromInterrupt.y = s.y := by
  simp [State.returnFromInterrupt]
@[simp] theorem State.returnFromInterrupt_sp (s : State) : s.returnFromInterrupt.sp = s.sp + 1 + 1 + 1 := by
  simp [State.returnFromInterrupt]
@[simp] theorem State.returnFromInterrupt_pc (s : State) : s.returnFromInterrupt.pc = s.pullStatus.pullWord.1 := by
  simp [State.returnFromInterrupt]
@[simp] theorem State.returnFromInterrupt_p (s : State) : s.returnFromInterrupt.p = Flags.unpack s.pull.1 := by
  simp [State.returnFromInterrupt]
@[simp] theorem State.returnFromInterrupt_nmiPending (s : State) :
    s.returnFromInterrupt.nmiPending = s.nmiPending := by simp [State.returnFromInterrupt]
@[simp] theorem State.returnFromInterrupt_irqLine (s : State) : s.returnFromInterrupt.irqLine = s.irqLine := by
  simp [State.returnFromInterrupt]
@[simp] theorem State.returnFromInterrupt_ic (s : State) : s.returnFromInterrupt.ic = s.ic := by
  simp [State.returnFromInterrupt]
@[simp] theorem State.returnFromInterrupt_cycles (s : State) : s.returnFromInterrupt.cycles = s.cycles := by
  simp [State.returnFromInterrupt]
theorem State.returnFromInterrupt_bus (s : State) : s.returnFromInterrupt.bus = s.pullStatus.pullWord.2.bus := by
  simp [State.returnFromInterrupt]

/-! ### Entering an event -/

@[simp] theorem State.pushFrame_a (s : State) (e : Event) : (s.pushFrame e).a = s.a := rfl
@[simp] theorem State.pushFrame_x (s : State) (e : Event) : (s.pushFrame e).x = s.x := rfl
@[simp] theorem State.pushFrame_y (s : State) (e : Event) : (s.pushFrame e).y = s.y := rfl
@[simp] theorem State.pushFrame_sp (s : State) (e : Event) : (s.pushFrame e).sp = s.sp - 1 - 1 - 1 := rfl
@[simp] theorem State.pushFrame_pc (s : State) (e : Event) : (s.pushFrame e).pc = s.pc := rfl
@[simp] theorem State.pushFrame_p (s : State) (e : Event) : (s.pushFrame e).p = s.p := rfl
@[simp] theorem State.pushFrame_nmiPending (s : State) (e : Event) : (s.pushFrame e).nmiPending = s.nmiPending := rfl
@[simp] theorem State.pushFrame_irqLine (s : State) (e : Event) : (s.pushFrame e).irqLine = s.irqLine := rfl
@[simp] theorem State.pushFrame_ic (s : State) (e : Event) : (s.pushFrame e).ic = s.ic := rfl
@[simp] theorem State.pushFrame_cycles (s : State) (e : Event) : (s.pushFrame e).cycles = s.cycles := rfl
@[simp] theorem State.pushFrame_bus_windows (s : State) (e : Event) : (s.pushFrame e).bus.windows = s.bus.windows := rfl
@[simp] theorem State.pushFrame_bus (s : State) (e : Event) : (s.pushFrame e).bus =
    ((s.bus.write (stackAddr s.sp) (hiByte (e.returnAddr s.pc))).write (stackAddr (s.sp - 1))
      (loByte (e.returnAddr s.pc))).write (stackAddr (s.sp - 1 - 1)) (s.p.pack e.breakBit) := rfl

@[simp] theorem State.maskIrq_a (s : State) : (s.maskIrq).a = s.a := rfl
@[simp] theorem State.maskIrq_x (s : State) : (s.maskIrq).x = s.x := rfl
@[simp] theorem State.maskIrq_y (s : State) : (s.maskIrq).y = s.y := rfl
@[simp] theorem State.maskIrq_sp (s : State) : (s.maskIrq).sp = s.sp := rfl
@[simp] theorem State.maskIrq_pc (s : State) : (s.maskIrq).pc = s.pc := rfl
@[simp] theorem State.maskIrq_p (s : State) : (s.maskIrq).p = { s.p with i := true } := rfl
@[simp] theorem State.maskIrq_nmiPending (s : State) : (s.maskIrq).nmiPending = s.nmiPending := rfl
@[simp] theorem State.maskIrq_irqLine (s : State) : (s.maskIrq).irqLine = s.irqLine := rfl
@[simp] theorem State.maskIrq_ic (s : State) : (s.maskIrq).ic = s.ic := rfl
@[simp] theorem State.maskIrq_cycles (s : State) : (s.maskIrq).cycles = s.cycles := rfl
@[simp] theorem State.maskIrq_bus (s : State) : s.maskIrq.bus = s.bus := rfl

@[simp] theorem State.jumpVector_a (s : State) (v : Addr) : (s.jumpVector v).a = s.a := rfl
@[simp] theorem State.jumpVector_x (s : State) (v : Addr) : (s.jumpVector v).x = s.x := rfl
@[simp] theorem State.jumpVector_y (s : State) (v : Addr) : (s.jumpVector v).y = s.y := rfl
@[simp] theorem State.jumpVector_sp (s : State) (v : Addr) : (s.jumpVector v).sp = s.sp := rfl
@[simp] theorem State.jumpVector_pc (s : State) (v : Addr) : (s.jumpVector v).pc = (s.read16 v).1 := rfl
@[simp] theorem State.jumpVector_p (s : State) (v : Addr) : (s.jumpVector v).p = s.p := rfl
@[simp] theorem State.jumpVector_nmiPending (s : State) (v : Addr) : (s.jumpVector v).nmiPending = s.nmiPending := rfl
@[simp] theorem State.jumpVector_irqLine (s : State) (v : Addr) : (s.jumpVector v).irqLine = s.irqLine := rfl
@[simp] theorem State.jumpVector_ic (s : State) (v : Addr) : (s.jumpVector v).ic = s.ic := rfl
@[simp] theorem State.jumpVector_cycles (s : State) (v : Addr) : (s.jumpVector v).cycles = s.cycles := rfl
@[simp] theorem State.jumpVector_bus_windows (s : State) (v : Addr) : (s.jumpVector v).bus.windows = s.bus.windows := rfl
@[simp] theorem State.jumpVector_bus_mem (s : State) (v : Addr) : (s.jumpVector v).bus.mem = s.bus.mem := rfl
@[simp] theorem State.jumpVector_bus (s : State) (v : Addr) : (s.jumpVector v).bus = ((s.bus.read v).2.read (v + 1)).2 := rfl

@[simp] theorem State.enterInterrupt_a (s : State) (e : Event) : (s.enterInterrupt e).a = s.a := by
  simp [State.enterInterrupt]
@[simp] theorem State.enterInterrupt_x (s : State) (e : Event) : (s.enterInterrupt e).x = s.x := by
  simp [State.enterInterrupt]
@[simp] theorem State.enterInterrupt_y (s : State) (e : Event) : (s.enterInterrupt e).y = s.y := by
  simp [State.enterInterrupt]
@[simp] theorem State.enterInterrupt_sp (s : State) (e : Event) : (s.enterInterrupt e).sp = s.sp - 1 - 1 - 1 := by
  simp [State.enterInterrupt]
@[simp] theorem State.enterInterrupt_p (s : State) (e : Event) : (s.enterInterrupt e).p = { s.p with i := true } := by
  simp [State.enterInterrupt]
@[simp] theorem State.enterInterrupt_nmiPending (s : State) (e : Event) : (s.enterInterrupt e).nmiPending = s.nmiPending := by
  simp [State.enterInterrupt]
@[simp] theorem State.enterInterrupt_irqLine (s : State) (e : Event) : (s.enterInterrupt e).irqLine = s.irqLine := by
  simp [State.enterInterrupt]
@[simp] theorem State.enterInterrupt_ic (s : State) (e : Event) : (s.enterInterrupt e).ic = .running := by
  simp [State.enterInterrupt]
@[simp] theorem State.enterInterrupt_cycles (s : State) (e : Event) : (s.enterInterrupt e).cycles = s.cycles := by
  simp [State.enterInterrupt]
@[simp] theorem State.enterInterrupt_bus_windows (s : State) (e : Event) :
    (s.enterInterrupt e).bus.windows = s.bus.windows := by simp [State.enterInterrupt]

/-- The bus after an entry: three stack writes, then the two vector reads (R280). -/
theorem State.enterInterrupt_bus (s : State) (e : Event) :
    (s.enterInterrupt e).bus =
      (((((s.bus.write (stackAddr s.sp) (hiByte (e.returnAddr s.pc))).write (stackAddr (s.sp - 1))
        (loByte (e.returnAddr s.pc))).write (stackAddr (s.sp - 1 - 1)) (s.p.pack e.breakBit)).read e.vector).2.read
        (e.vector + 1)).2 := by simp [State.enterInterrupt]

/-- The program counter after an entry: the word at the vector, read after the pushes (R280). -/
theorem State.enterInterrupt_pc (s : State) (e : Event) :
    (s.enterInterrupt e).pc =
      ofBytes (((s.pushFrame e).bus.read e.vector).2.answer (e.vector + 1)) ((s.pushFrame e).bus.answer e.vector) := by
  simp only [State.enterInterrupt, State.setIc_pc, State.jumpVector_pc, State.read16, State.readPair_eq,
    State.maskIrq_bus, State.pushFrame_bus, State.setIc_sp, State.setIc_bus, State.setIc_p]

/-- The canonical form survives an entry. -/
theorem State.enterInterrupt_wf {s : State} (h : Memory.wf s.bus.mem = true) (e : Event) :
    Memory.wf (s.enterInterrupt e).bus.mem = true := by
  rw [State.enterInterrupt_bus]
  exact Bus.write_wf (Bus.write_wf (Bus.write_wf h _ _) _ _) _ _

@[simp] theorem State.takeEvent_a (s : State) (e : Event) : (s.takeEvent e).a = s.a := by
  cases e <;> simp [State.takeEvent, entryCycles]
@[simp] theorem State.takeEvent_x (s : State) (e : Event) : (s.takeEvent e).x = s.x := by
  cases e <;> simp [State.takeEvent, entryCycles]
@[simp] theorem State.takeEvent_y (s : State) (e : Event) : (s.takeEvent e).y = s.y := by
  cases e <;> simp [State.takeEvent, entryCycles]
@[simp] theorem State.takeEvent_sp (s : State) (e : Event) : (s.takeEvent e).sp = s.sp - 1 - 1 - 1 := by
  cases e <;> simp [State.takeEvent, entryCycles]
@[simp] theorem State.takeEvent_p (s : State) (e : Event) : (s.takeEvent e).p = { s.p with i := true } := by
  cases e <;> simp [State.takeEvent, entryCycles]
@[simp] theorem State.takeEvent_irqLine (s : State) (e : Event) : (s.takeEvent e).irqLine = s.irqLine := by
  cases e <;> simp [State.takeEvent, entryCycles]
@[simp] theorem State.takeEvent_ic (s : State) (e : Event) : (s.takeEvent e).ic = .running := by
  cases e <;> simp [State.takeEvent, entryCycles]
@[simp] theorem State.takeEvent_cycles (s : State) (e : Event) : (s.takeEvent e).cycles = s.cycles + 7 := by
  cases e <;> simp [State.takeEvent, entryCycles]
@[simp] theorem State.takeEvent_bus_windows (s : State) (e : Event) : (s.takeEvent e).bus.windows = s.bus.windows := by
  cases e <;> simp [State.takeEvent, entryCycles]

/-- Taking an event at a boundary goes where its entry goes. -/
theorem State.takeEvent_pc (s : State) (e : Event) : (s.takeEvent e).pc = (s.enterInterrupt e).pc := by
  simp only [State.takeEvent, State.addCycles_pc, State.enterInterrupt_pc, State.pushFrame_bus]
  split <;> rfl

/-- Taking an event at a boundary makes the accesses of its entry. -/
theorem State.takeEvent_bus (s : State) (e : Event) : (s.takeEvent e).bus = (s.enterInterrupt e).bus := by
  simp only [State.takeEvent, State.addCycles_bus, State.enterInterrupt_bus]
  split <;> rfl

/-- An NMI entry clears the latch, the others leave it (R273). -/
@[simp] theorem State.takeEvent_nmiPending (s : State) (e : Event) :
    (s.takeEvent e).nmiPending = (if e = .nmi then false else s.nmiPending) := by
  simp only [State.takeEvent, State.addCycles_nmiPending, State.enterInterrupt_nmiPending]
  split <;> rfl

theorem State.takeEvent_wf {s : State} (h : Memory.wf s.bus.mem = true) (e : Event) :
    Memory.wf (s.takeEvent e).bus.mem = true := by
  simp only [State.takeEvent, State.addCycles_bus]
  refine State.enterInterrupt_wf ?_ e
  split
  · exact h
  · exact h

/-! ### Reset -/

@[simp] theorem State.resetCall_a (s : State) : s.resetCall.a = s.a := by simp [State.resetCall, entryCycles]
@[simp] theorem State.resetCall_x (s : State) : s.resetCall.x = s.x := by simp [State.resetCall, entryCycles]
@[simp] theorem State.resetCall_y (s : State) : s.resetCall.y = s.y := by simp [State.resetCall, entryCycles]
@[simp] theorem State.resetCall_sp (s : State) : s.resetCall.sp = s.sp - 3 := by simp [State.resetCall, entryCycles]
@[simp] theorem State.resetCall_p (s : State) : s.resetCall.p = { s.p with i := true } := by simp [State.resetCall, entryCycles]
@[simp] theorem State.resetCall_nmiPending (s : State) : s.resetCall.nmiPending = false := by simp [State.resetCall, entryCycles]
@[simp] theorem State.resetCall_irqLine (s : State) : s.resetCall.irqLine = s.irqLine := by simp [State.resetCall, entryCycles]
@[simp] theorem State.resetCall_ic (s : State) : s.resetCall.ic = .running := by simp [State.resetCall, entryCycles]
@[simp] theorem State.resetCall_cycles (s : State) : s.resetCall.cycles = s.cycles + 7 := by simp [State.resetCall, entryCycles]
@[simp] theorem State.resetCall_bus_windows (s : State) : s.resetCall.bus.windows = s.bus.windows := by simp [State.resetCall, entryCycles]
@[simp] theorem State.resetCall_bus_mem (s : State) : s.resetCall.bus.mem = s.bus.mem := by simp [State.resetCall, entryCycles]

/-- `State.reset` is power-on with the draw the spec writes out, on the empty reference bus (R322). -/
theorem reset_eq_powerOn :
    State.reset = State.powerOn Config.testLogDraw { mem := [], windows := [], log := [] } := by decide

/-! ### The step -/

/-- Inversion of `step`: it enters the pending event, or it runs a well-formed instruction's row on the fetched state. -/
theorem step_next_inv {s t : State} (h : step s = .next t) :
    (∃ e, s.pendingEvent = some e ∧ t = s.takeEvent e) ∨
    (s.pendingEvent = none ∧ ∃ i e bytes, decode bytes = .instr i [] ∧ i.wf = true ∧ dispatch i = some e ∧
      bytes.length = i.size ∧
      t = runRow e i.operand (semOf i) { s with
        pc := s.pc + BitVec.ofNat 16 i.size,
        bus := { s.bus with
          log := (bytes.zipIdx.map fun b => BusEvent.read (s.pc + BitVec.ofNat 16 b.2) b.1).reverse ++ s.bus.log } }) := by
  unfold step at h
  split at h
  · rename_i e he
    exact .inl ⟨e, he, by cases h; rfl⟩
  · rename_i he
    obtain ⟨bytes, hb, hl, _, hs⟩ := fetchInstr_spec s
    rw [hs] at h
    obtain ⟨e, hd, ht⟩ := exec_next_inv h
    exact .inr ⟨he, _, e, bytes, hb, fetchInstr_wf s, hd, hl, ht⟩

/-- The event taken at a boundary is an NMI or an IRQ, never BRK, and says what it saw (R277, R278). -/
theorem State.pendingEvent_cases (s : State) :
    (s.nmiPending = true ∧ s.pendingEvent = some .nmi) ∨
    (s.nmiPending = false ∧ s.irqLine = true ∧ s.p.i = false ∧ s.pendingEvent = some .irq) ∨
    (s.nmiPending = false ∧ (s.irqLine = false ∨ s.p.i = true) ∧ s.pendingEvent = none) := by
  unfold State.pendingEvent
  cases s.nmiPending <;> cases s.irqLine <;> cases s.p.i <;> simp

end Sys2Proof.Machine
end

