-- ==== Sys2Proof/Laws/Driver.lean ====
section
/-! SUPPORT. What each move of the driving loop does, said once: the owner's changes reach memory or the history and no
register, and every move but a step has a next state by definition. -/

namespace Sys2Proof.Machine

/-! ### The owner's moves change the bus alone -/

@[simp] theorem State.ownerWrite_a (s : State) (c : Addr) (v : Byte) : (s.ownerWrite c v).a = s.a := rfl
@[simp] theorem State.ownerWrite_x (s : State) (c : Addr) (v : Byte) : (s.ownerWrite c v).x = s.x := rfl
@[simp] theorem State.ownerWrite_y (s : State) (c : Addr) (v : Byte) : (s.ownerWrite c v).y = s.y := rfl
@[simp] theorem State.ownerWrite_sp (s : State) (c : Addr) (v : Byte) : (s.ownerWrite c v).sp = s.sp := rfl
@[simp] theorem State.ownerWrite_pc (s : State) (c : Addr) (v : Byte) : (s.ownerWrite c v).pc = s.pc := rfl
@[simp] theorem State.ownerWrite_p (s : State) (c : Addr) (v : Byte) : (s.ownerWrite c v).p = s.p := rfl
@[simp] theorem State.ownerWrite_nmiPending (s : State) (c : Addr) (v : Byte) : (s.ownerWrite c v).nmiPending = s.nmiPending := rfl
@[simp] theorem State.ownerWrite_irqLine (s : State) (c : Addr) (v : Byte) : (s.ownerWrite c v).irqLine = s.irqLine := rfl
@[simp] theorem State.ownerWrite_ic (s : State) (c : Addr) (v : Byte) : (s.ownerWrite c v).ic = s.ic := rfl
@[simp] theorem State.ownerWrite_cycles (s : State) (c : Addr) (v : Byte) : (s.ownerWrite c v).cycles = s.cycles := rfl
@[simp] theorem State.ownerWrite_bus (s : State) (c : Addr) (v : Byte) : (s.ownerWrite c v).bus = s.bus.ownerStore c v := rfl

@[simp] theorem State.deviceChange_a (s : State) (n : Nat) : (s.deviceChange n).a = s.a := rfl
@[simp] theorem State.deviceChange_x (s : State) (n : Nat) : (s.deviceChange n).x = s.x := rfl
@[simp] theorem State.deviceChange_y (s : State) (n : Nat) : (s.deviceChange n).y = s.y := rfl
@[simp] theorem State.deviceChange_sp (s : State) (n : Nat) : (s.deviceChange n).sp = s.sp := rfl
@[simp] theorem State.deviceChange_pc (s : State) (n : Nat) : (s.deviceChange n).pc = s.pc := rfl
@[simp] theorem State.deviceChange_p (s : State) (n : Nat) : (s.deviceChange n).p = s.p := rfl
@[simp] theorem State.deviceChange_nmiPending (s : State) (n : Nat) : (s.deviceChange n).nmiPending = s.nmiPending := rfl
@[simp] theorem State.deviceChange_irqLine (s : State) (n : Nat) : (s.deviceChange n).irqLine = s.irqLine := rfl
@[simp] theorem State.deviceChange_ic (s : State) (n : Nat) : (s.deviceChange n).ic = s.ic := rfl
@[simp] theorem State.deviceChange_cycles (s : State) (n : Nat) : (s.deviceChange n).cycles = s.cycles := rfl
@[simp] theorem State.deviceChange_bus (s : State) (n : Nat) : (s.deviceChange n).bus = s.bus.deviceChange n := rfl

/-- After the owner's store a read answers the byte stored where the address is plain, and the free value of a history
that holds the store where it reads a window (R338). -/
theorem Bus.answer_ownerStore (b : Bus) (a c : Addr) (v : Byte) :
    (b.ownerStore a v).answer c =
      if b.inWindow c then Config.busAnswer (.ownerStore a v :: b.log) c
      else if c = a then v else Memory.read b.mem c.toNat := by
  cases h : b.inWindow c with
  | true => exact Bus.answer_of_window (b := b.ownerStore a v) h
  | false =>
    rw [Bus.answer_of_plain (b := b.ownerStore a v) h, Bus.ownerStore_mem, Bus.stored_read]
    by_cases hc : c = a
    · subst hc; simp [h]
    · simp [hc]

/-- After a device's change a read of a window answers the free value of a history that holds the change (R338). -/
theorem Bus.answer_deviceChange (b : Bus) (what : Nat) (c : Addr) :
    (b.deviceChange what).answer c =
      if b.inWindow c then Config.busAnswer (.deviceChange what :: b.log) c else Memory.read b.mem c.toNat := by
  cases h : b.inWindow c with
  | true => exact Bus.answer_of_window (b := b.deviceChange what) h
  | false => exact Bus.answer_of_plain (b := b.deviceChange what) h

/-- Inversion of `hostCall`: what each move's next state is (R338). -/
theorem hostCall_next_inv {k : HostCall} {s t : State} (h : hostCall k s = .next t) :
    (k = .step ∧ step s = .next t) ∨ (k = .reset ∧ t = s.resetCall) ∨ (k = .requestNmi ∧ t = s.requestNmi) ∨
    (∃ active, k = .setIrqLine active ∧ t = s.driveIrqLine active) ∨
    (∃ a v, k = .ownerWrite a v ∧ t = s.ownerWrite a v) ∨ (∃ what, k = .deviceChange what ∧ t = s.deviceChange what) := by
  cases k <;> simp_all [hostCall]

end Sys2Proof.Machine
end

