-- ==== Sys2Proof/Machine/Asm.lean ====
section
/-! DEFINITION. The assembler text of an instruction (`30_encoding.md` R97) and the assembler's branch offset. It has no
part in the machine's steps; a text is a list of characters. -/

namespace Sys2Proof

/-- One hexadecimal digit, upper case (R7). -/
def hexDigit (k : Nat) : Char :=
  match k with
  | 0 => '0' | 1 => '1' | 2 => '2' | 3 => '3' | 4 => '4' | 5 => '5' | 6 => '6' | 7 => '7'
  | 8 => '8' | 9 => '9' | 10 => 'A' | 11 => 'B' | 12 => 'C' | 13 => 'D' | 14 => 'E' | _ => 'F'

/-- `$nn`, a byte in hexadecimal (R7). -/
def Asm.byteText (b : Byte) : List Char := ['$', hexDigit (b.toNat / 16), hexDigit (b.toNat % 16)]

/-- `$hhll`, an address in hexadecimal (R7). -/
def Asm.addrText (w : Addr) : List Char := Asm.byteText (hiByte w) ++ (Asm.byteText (loByte w)).drop 1

/-- The three-letter mnemonic (R93); the fallback's rows are written as a byte. -/
def Instr.mnemonicText : Instr → List Char
  | .lda _ => ['L', 'D', 'A'] | .ldx _ => ['L', 'D', 'X'] | .ldy _ => ['L', 'D', 'Y']
  | .sta _ => ['S', 'T', 'A'] | .stx _ => ['S', 'T', 'X'] | .sty _ => ['S', 'T', 'Y']
  | .tax => ['T', 'A', 'X'] | .tay => ['T', 'A', 'Y'] | .txa => ['T', 'X', 'A']
  | .tya => ['T', 'Y', 'A'] | .tsx => ['T', 'S', 'X'] | .txs => ['T', 'X', 'S']
  | .inc _ => ['I', 'N', 'C'] | .inx => ['I', 'N', 'X'] | .iny => ['I', 'N', 'Y']
  | .dec _ => ['D', 'E', 'C'] | .dex => ['D', 'E', 'X'] | .dey => ['D', 'E', 'Y']
  | .adc _ => ['A', 'D', 'C'] | .sbc _ => ['S', 'B', 'C']
  | .cmp _ => ['C', 'M', 'P'] | .cpx _ => ['C', 'P', 'X'] | .cpy _ => ['C', 'P', 'Y']
  | .and _ => ['A', 'N', 'D'] | .ora _ => ['O', 'R', 'A'] | .eor _ => ['E', 'O', 'R'] | .bit _ => ['B', 'I', 'T']
  | .asl _ => ['A', 'S', 'L'] | .lsr _ => ['L', 'S', 'R'] | .rol _ => ['R', 'O', 'L'] | .ror _ => ['R', 'O', 'R']
  | .bcc _ => ['B', 'C', 'C'] | .bcs _ => ['B', 'C', 'S'] | .beq _ => ['B', 'E', 'Q'] | .bne _ => ['B', 'N', 'E']
  | .bmi _ => ['B', 'M', 'I'] | .bpl _ => ['B', 'P', 'L'] | .bvc _ => ['B', 'V', 'C'] | .bvs _ => ['B', 'V', 'S']
  | .jmp _ => ['J', 'M', 'P'] | .jsr _ => ['J', 'S', 'R'] | .rts => ['R', 'T', 'S']
  | .pha => ['P', 'H', 'A'] | .pla => ['P', 'L', 'A'] | .php => ['P', 'H', 'P'] | .plp => ['P', 'L', 'P']
  | .clc => ['C', 'L', 'C'] | .sec => ['S', 'E', 'C'] | .cld => ['C', 'L', 'D'] | .sed => ['S', 'E', 'D']
  | .cli => ['C', 'L', 'I'] | .sei => ['S', 'E', 'I'] | .clv => ['C', 'L', 'V']
  | .brk => ['B', 'R', 'K'] | .rti => ['R', 'T', 'I'] | .nop => ['N', 'O', 'P']
  | .undoc _ => ['.', 'b', 'y', 't', 'e']

/-- The operand by mode, with the space before it (R97); a branch shows its target, so the address of the instruction
is needed. -/
def Operand.text (o : Operand) (at_ : Addr) : List Char :=
  match o with
  | .imp => []
  | .acc => [' ', 'A']
  | .imm nn => [' ', '#'] ++ Asm.byteText nn
  | .zp zz => ' ' :: Asm.byteText zz
  | .zpx zz => ' ' :: Asm.byteText zz ++ [',', 'X']
  | .zpy zz => ' ' :: Asm.byteText zz ++ [',', 'Y']
  | .abs w => ' ' :: Asm.addrText w
  | .abx w => ' ' :: Asm.addrText w ++ [',', 'X']
  | .aby w => ' ' :: Asm.addrText w ++ [',', 'Y']
  | .ind w => [' ', '('] ++ Asm.addrText w ++ [')']
  | .izx zz => [' ', '('] ++ Asm.byteText zz ++ [',', 'X', ')']
  | .izy zz => [' ', '('] ++ Asm.byteText zz ++ [')', ',', 'Y']
  | .rel rr => ' ' :: Asm.addrText (at_ + 2 + sext16 rr)

/-- The assembler text of the instruction at address `at_` (R97). -/
def Instr.text (i : Instr) (at_ : Addr) : List Char :=
  match i with
  | .undoc opc => i.mnemonicText ++ ' ' :: Asm.byteText opc
  | _ => i.mnemonicText ++ i.operand.text at_

/-- The offset byte the assembler computes for a branch at `at_` to `target`: `target - (at_ + 2)`, where that lies
in -128 to +127 (R97). -/
def Asm.branchOffset (at_ target : Addr) : Option Byte :=
  let d := target - (at_ + 2)
  if sext16 (loByte d) = d then some (loByte d) else none

end Sys2Proof
end

