-- ==== Sys2Proof/Tests/Slice0.lean ====
section
/-! SUPPORT. Tests of the model on single words and single steps, with expected results from the spec: the encodings of
`30_encoding.md` R91 and R93, and the vectors T, V and S of `95_test_vectors.md`; and for every obligation with
hypotheses a state that meets them. -/

namespace Sys2Proof.Tests

open Sys2Proof.Machine

/-! ### Small states -/

/-- Every flag clear. -/
def clear : Flags := { c := false, z := false, i := false, d := false, b := false, v := false, n := false }

/-- The start state of the vectors: A = X = Y = 0, SP = 0xFD, PC = 0x8000, empty flat memory. -/
def start : State :=
  { a := 0, x := 0, y := 0, sp := 0xFD, pc := 0x8000, p := clear, nmiPending := false, irqLine := false,
    ic := .running, cycles := 0, bus := { mem := [], windows := [], log := [] } }

/-- `s` with bytes placed in memory. -/
def put (s : State) (a : Addr) (bs : List Byte) : State :=
  { s with bus := { s.bus with mem := Memory.place s.bus.mem a bs } }

/-- `s` with a device window over a range of addresses. -/
def device (s : State) (first last : Addr) : State :=
  { s with bus := { s.bus with windows := [{ first := first, last := last }] } }

/-- The outcome is a next state that satisfies `f`. -/
def gives (o : Host.Outcome State Fault Refusal) (f : State → Bool) : Bool :=
  match o with
  | .next t => f t
  | .fault _ => false
  | .refused _ => false

/-- One step gives a state that satisfies `f`. -/
def leads (s : State) (f : State → Bool) : Bool := gives (step s) f

/-! ### Well-formedness: each check refuses an ill-formed term -/

theorem test_wf_accepts : (Instr.lda (.abx 0xFFFF)).wf = true ∧ (Instr.jmp (.ind 0)).wf = true ∧
    (Instr.undoc 0x02).wf = true := by decide
theorem test_wf_alu : (Instr.lda (.zpy 0)).wf = false := by decide
theorem test_wf_ldx : (Instr.ldx (.zpx 0)).wf = false := by decide
theorem test_wf_ldy : (Instr.ldy (.aby 0)).wf = false := by decide
theorem test_wf_sta : (Instr.sta (.imm 0)).wf = false := by decide
theorem test_wf_stx : (Instr.stx (.aby 0)).wf = false := by decide
theorem test_wf_sty : (Instr.sty (.abx 0)).wf = false := by decide
theorem test_wf_modify : (Instr.inc .acc).wf = false := by decide
theorem test_wf_shift : (Instr.asl (.aby 0)).wf = false := by decide
theorem test_wf_compare_index : (Instr.cpx (.zpx 0)).wf = false := by decide
theorem test_wf_bit : (Instr.bit (.imm 0)).wf = false := by decide
theorem test_wf_jump : (Instr.jmp (.abx 0)).wf = false := by decide
theorem test_wf_undoc : (Instr.undoc 0xEA).wf = false := by decide

/-- A term that is no row of the table is refused by name, and has no encoding. -/
theorem test_ill_formed_is_refused : exec (.sta (.imm 0)) start = .refused (.noSuchForm "STA") := rfl
theorem test_ill_formed_has_no_encoding : encode (.sta (.imm 0)) = [] := by decide

/-! ### Decoding: words written out from the map of R93 and the formats of R91, every mnemonic once -/

theorem test_decode_loads_and_stores :
    decode [0xA9, 0x05] = .instr (.lda (.imm 0x05)) [] ∧ decode [0xB6, 0xFE] = .instr (.ldx (.zpy 0xFE)) [] ∧
    decode [0xBC, 0xFF, 0x20] = .instr (.ldy (.abx 0x20FF)) [] ∧ decode [0x91, 0x40] = .instr (.sta (.izy 0x40)) [] ∧
    decode [0x96, 0x01] = .instr (.stx (.zpy 0x01)) [] ∧ decode [0x8C, 0x00, 0x06] = .instr (.sty (.abs 0x0600)) [] := by
  decide

theorem test_decode_transfers :
    decode [0xAA] = .instr .tax [] ∧ decode [0xA8] = .instr .tay [] ∧ decode [0x8A] = .instr .txa [] ∧
    decode [0x98] = .instr .tya [] ∧ decode [0xBA] = .instr .tsx [] ∧ decode [0x9A] = .instr .txs [] := by decide

theorem test_decode_inc_dec :
    decode [0xFE, 0xFF, 0x04] = .instr (.inc (.abx 0x04FF)) [] ∧ decode [0xE8] = .instr .inx [] ∧
    decode [0xC8] = .instr .iny [] ∧ decode [0xD6, 0x80] = .instr (.dec (.zpx 0x80)) [] ∧
    decode [0xCA] = .instr .dex [] ∧ decode [0x88] = .instr .dey [] := by decide

theorem test_decode_arithmetic_and_compare :
    decode [0x61, 0x7F] = .instr (.adc (.izx 0x7F)) [] ∧ decode [0xF9, 0x34, 0x12] = .instr (.sbc (.aby 0x1234)) [] ∧
    decode [0xD5, 0x80] = .instr (.cmp (.zpx 0x80)) [] ∧ decode [0xE4, 0x10] = .instr (.cpx (.zp 0x10)) [] ∧
    decode [0xCC, 0x00, 0x02] = .instr (.cpy (.abs 0x0200)) [] := by decide

theorem test_decode_logic :
    decode [0x31, 0x20] = .instr (.and (.izy 0x20)) [] ∧ decode [0x1D, 0xCD, 0xAB] = .instr (.ora (.abx 0xABCD)) [] ∧
    decode [0x49, 0xA5] = .instr (.eor (.imm 0xA5)) [] ∧ decode [0x24, 0x10] = .instr (.bit (.zp 0x10)) [] := by decide

theorem test_decode_shifts :
    decode [0x0A] = .instr (.asl .acc) [] ∧ decode [0x56, 0x11] = .instr (.lsr (.zpx 0x11)) [] ∧
    decode [0x2E, 0x01, 0x02] = .instr (.rol (.abs 0x0201)) [] ∧
    decode [0x7E, 0xFF, 0x02] = .instr (.ror (.abx 0x02FF)) [] := by decide

theorem test_decode_branches :
    decode [0x90, 0x10] = .instr (.bcc 0x10) [] ∧ decode [0xB0, 0x01] = .instr (.bcs 0x01) [] ∧
    decode [0xF0, 0x00] = .instr (.beq 0x00) [] ∧ decode [0xD0, 0xFC] = .instr (.bne 0xFC) [] ∧
    decode [0x30, 0x80] = .instr (.bmi 0x80) [] ∧ decode [0x10, 0x7F] = .instr (.bpl 0x7F) [] ∧
    decode [0x50, 0xFF] = .instr (.bvc 0xFF) [] ∧ decode [0x70, 0xFE] = .instr (.bvs 0xFE) [] := by decide

theorem test_decode_jumps_and_stack :
    decode [0x4C, 0x34, 0x12] = .instr (.jmp (.abs 0x1234)) [] ∧
    decode [0x6C, 0xFF, 0x02] = .instr (.jmp (.ind 0x02FF)) [] ∧
    decode [0x20, 0x00, 0x90] = .instr (.jsr 0x9000) [] ∧ decode [0x60] = .instr .rts [] ∧
    decode [0x48] = .instr .pha [] ∧ decode [0x68] = .instr .pla [] ∧ decode [0x08] = .instr .php [] ∧
    decode [0x28] = .instr .plp [] := by decide

theorem test_decode_flags_and_system :
    decode [0x18] = .instr .clc [] ∧ decode [0x38] = .instr .sec [] ∧ decode [0xD8] = .instr .cld [] ∧
    decode [0xF8] = .instr .sed [] ∧ decode [0x58] = .instr .cli [] ∧ decode [0x78] = .instr .sei [] ∧
    decode [0xB8] = .instr .clv [] ∧ decode [0x00, 0xEA] = .instr .brk [0xEA] ∧ decode [0x40] = .instr .rti [] ∧
    decode [0xEA] = .instr .nop [] ∧ decode [0x0C, 0x34, 0x12] = .instr (.undoc 0x0C) [0x34, 0x12] := by decide

/-- The remaining addressing modes: `ADC $44`, `ADC $4400`, `LSR A`, `LDA ($FE,X)`. -/
theorem test_decode_modes :
    decode [0x65, 0x44] = .instr (.adc (.zp 0x44)) [] ∧ decode [0x6D, 0x00, 0x44] = .instr (.adc (.abs 0x4400)) [] ∧
    decode [0x4A] = .instr (.lsr .acc) [] ∧ decode [0xA1, 0xFE] = .instr (.lda (.izx 0xFE)) [] := by decide

theorem test_decode_names_missing_bytes :
    decode [] = .rejected .noOpcode ∧ decode [0xA9] = .rejected (.truncated 0xA9) ∧
    decode [0x4C, 0x34] = .rejected (.truncated 0x4C) := by decide

/-- Table words: byte 0 is the low byte, and bits above `nbits` are 0. -/
theorem test_table_word :
    decodeTableWord 24 0x1234AD = some (.lda (.abs 0x1234)) ∧ decodeTableWord 8 0x1234AD = some (.lda (.abs 0)) ∧
    decodeTableWord 8 0xEA = some .nop := by decide

/-! ### One step from the vectors of `95_test_vectors.md`, L2 -/

/-- T3 (R121): LDA zp,X wraps in page 0. -/
theorem test_lda_zpx_wraps :
    leads (put (put ({ start with x := 0x20 }) 0x0010 [0x42]) 0x8000 [0xB5, 0xF0]) (fun t => t.a == 0x42 &&
      t.snapshot.p == 0x20) = true := by decide

/-- T5 (R121): LDA abs,X page cross (+1). -/
theorem test_lda_abx_crosses :
    leads (put (put ({ start with x := 0x20 }) 0x1110 [0x01]) 0x8000 [0xBD, 0xF0, 0x10]) (fun t => t.a == 0x01
      && t.cycles == 5) = true := by decide

/-- T9 (R122): LDX zp,Y wraps. -/
theorem test_ldx_zpy_wraps :
    leads (put ({ start with y := 0x02 }) 0x8000 [0xB6, 0xFF]) (fun t => t.x == 0x00 && t.snapshot.p == 0x22) =
      true := by decide

/-- T10 (R123): LDY abs,X page cross (+1). -/
theorem test_ldy_abx_crosses :
    leads (put (put ({ start with x := 0x01 }) 0x2100 [0x80]) 0x8000 [0xBC, 0xFF, 0x20]) (fun t => t.y == 0x80
      && t.cycles == 5) = true := by decide

/-- T11 (R124): STA abs,Y crossing: no penalty, no flags. -/
theorem test_sta_aby_crosses :
    leads (put ({ start with a := 0x00, y := 0x01, p := { clear with n := true } }) 0x8000 [0x99, 0xFF, 0x20])
      (fun t => t.snapshot.p == 0xA0 && t.cycles == 5) = true := by decide

/-- T12 (R124): STA (zp),Y. -/
theorem test_sta_izy :
    leads (put (put ({ start with a := 0xAB, y := 0x05 }) 0x0041 [0x03]) 0x8000 [0x91, 0x40]) (fun t => t.byteAt
      0x0305 == 0xAB && t.snapshot.p == 0x20) = true := by decide

/-- T13 (R125): STX zp,Y wraps. -/
theorem test_stx_zpy_wraps :
    leads (put ({ start with x := 0x77, y := 0x03 }) 0x8000 [0x96, 0xFE]) (fun t => t.byteAt 0x0001 == 0x77 &&
      t.snapshot.p == 0x20) = true := by decide

/-- T14 (R126): STY abs. -/
theorem test_sty_abs :
    leads (put ({ start with y := 0x5A }) 0x8000 [0x8C, 0x00, 0x06]) (fun t => t.byteAt 0x0600 == 0x5A &&
      t.snapshot.p == 0x20) = true := by decide

/-- T15 (R141): TAX zero. -/
theorem test_tax_zero :
    leads (put ({ start with a := 0x00, x := 0x33 }) 0x8000 [0xAA]) (fun t => t.x == 0x00 && t.snapshot.p ==
      0x22) = true := by decide

/-- T16 (R142): TAY negative. -/
theorem test_tay_negative :
    leads (put ({ start with a := 0xF0 }) 0x8000 [0xA8]) (fun t => t.y == 0xF0 && t.snapshot.p == 0xA0) = true
      := by decide

/-- T17 (R143): TXA. -/
theorem test_txa :
    leads (put ({ start with a := 0xFF, x := 0x01, p := { clear with n := true } }) 0x8000 [0x8A]) (fun t => t.a
      == 0x01 && t.snapshot.p == 0x20) = true := by decide

/-- T18 (R144): TYA zero. -/
theorem test_tya_zero :
    leads (put ({ start with a := 0x12, y := 0x00 }) 0x8000 [0x98]) (fun t => t.a == 0x00 && t.snapshot.p ==
      0x22) = true := by decide

/-- T19 (R145): TSX sets N from SP. -/
theorem test_tsx_sets_n :
    leads (put ({ start with sp := 0x80 }) 0x8000 [0xBA]) (fun t => t.x == 0x80 && t.snapshot.p == 0xA0) = true
      := by decide

/-- T20 (R146): TXS zero: no flags. -/
theorem test_txs_no_flag :
    leads (put ({ start with x := 0x00, p := { clear with n := true } }) 0x8000 [0x9A]) (fun t => t.sp == 0x00
      && t.snapshot.p == 0xA0) = true := by decide

/-- T21 (R151): INC zp 0xFF wraps to 0. -/
theorem test_inc_zp_wraps :
    leads (put (put ({ start with p := { clear with c := true, v := true } }) 0x0010 [0xFF]) 0x8000 [0xE6,
      0x10]) (fun t => t.byteAt 0x0010 == 0x00 && t.snapshot.p == 0x63) = true := by decide

/-- T22 (R151): INC abs,X crossing: fixed 7. -/
theorem test_inc_abx_fixed_cost :
    leads (put (put ({ start with x := 0x01 }) 0x0500 [0x7F]) 0x8000 [0xFE, 0xFF, 0x04]) (fun t => t.byteAt
      0x0500 == 0x80 && t.cycles == 7) = true := by decide

/-- T23 (R152): INX 0x7F to 0x80. -/
theorem test_inx_sign :
    leads (put ({ start with x := 0x7F }) 0x8000 [0xE8]) (fun t => t.x == 0x80 && t.snapshot.p == 0xA0) = true
      := by decide

/-- T24 (R153): INY 0xFF wraps. -/
theorem test_iny_wraps :
    leads (put ({ start with y := 0xFF }) 0x8000 [0xC8]) (fun t => t.y == 0x00 && t.snapshot.p == 0x22) = true
      := by decide

/-- T25 (R154): DEC zp,X 0x00 to 0xFF. -/
theorem test_dec_zpx :
    leads (put ({ start with x := 0x90 }) 0x8000 [0xD6, 0x80]) (fun t => t.byteAt 0x0010 == 0xFF && t.snapshot.p
      == 0xA0) = true := by decide

/-- T26 (R155): DEX 0x01 to 0x00. -/
theorem test_dex_zero :
    leads (put ({ start with x := 0x01 }) 0x8000 [0xCA]) (fun t => t.x == 0x00 && t.snapshot.p == 0x22) = true
      := by decide

/-- T27 (R156): DEY 0x00 to 0xFF. -/
theorem test_dey_wraps :
    leads (put ({ start with y := 0x00 }) 0x8000 [0x88]) (fun t => t.y == 0xFF && t.snapshot.p == 0xA0) = true
      := by decide

/-- T28 (R161): ADC 0x50+0x50: signed overflow. -/
theorem test_adc_overflow :
    leads (put ({ start with a := 0x50 }) 0x8000 [0x69, 0x50]) (fun t => t.a == 0xA0 && t.snapshot.p == 0xE0) =
      true := by decide

/-- T33 (R161): ADC with D=1 stays binary. -/
theorem test_adc_ignores_decimal :
    leads (put ({ start with a := 0x09, p := { clear with d := true } }) 0x8000 [0x69, 0x01]) (fun t => t.a ==
      0x0A && t.snapshot.p == 0x28) = true := by decide

/-- T37 (R162): SBC 0x00-0x01: borrow. -/
theorem test_sbc_borrow :
    leads (put ({ start with a := 0x00, p := { clear with c := true } }) 0x8000 [0xE9, 0x01]) (fun t => t.a ==
      0xFF && t.snapshot.p == 0xA0) = true := by decide

/-- T39 (R162): SBC 0x80-0x01: overflow. -/
theorem test_sbc_overflow :
    leads (put ({ start with a := 0x80, p := { clear with c := true } }) 0x8000 [0xE9, 0x01]) (fun t => t.a ==
      0x7F && t.snapshot.p == 0x61) = true := by decide

/-- T41 (R165): CMP A < m. -/
theorem test_cmp_below :
    leads (put ({ start with a := 0x42 }) 0x8000 [0xC9, 0x43]) (fun t => t.a == 0x42 && t.snapshot.p == 0xA0) =
      true := by decide

/-- T42 (R165): CMP A > m, V untouched. -/
theorem test_cmp_keeps_v :
    leads (put ({ start with a := 0x42, p := { clear with v := true } }) 0x8000 [0xC9, 0x01]) (fun t => t.a ==
      0x42 && t.snapshot.p == 0x61) = true := by decide

/-- T44 (R166): CPX zp. -/
theorem test_cpx_zp :
    leads (put (put ({ start with x := 0x10 }) 0x0010 [0x10]) 0x8000 [0xE4, 0x10]) (fun t => t.x == 0x10 &&
      t.snapshot.p == 0x23) = true := by decide

/-- T45 (R167): CPY abs. -/
theorem test_cpy_abs :
    leads (put (put ({ start with y := 0x00 }) 0x0200 [0xFF]) 0x8000 [0xCC, 0x00, 0x02]) (fun t => t.y == 0x00
      && t.snapshot.p == 0x20) = true := by decide

/-- T46 (R181): AND to zero. -/
theorem test_and_zero :
    leads (put ({ start with a := 0xF0 }) 0x8000 [0x29, 0x0F]) (fun t => t.a == 0x00 && t.snapshot.p == 0x22) =
      true := by decide

/-- T49 (R181): AND (zp),Y crossing (+1). -/
theorem test_and_izy_crosses :
    leads (put (put (put (put ({ start with a := 0xFF, y := 0x01 }) 0x0020 [0xFF]) 0x0021 [0x40]) 0x4100 [0x81])
      0x8000 [0x31, 0x20]) (fun t => t.a == 0x81 && t.cycles == 6) = true := by decide

/-- T47 (R182): ORA negative. -/
theorem test_ora_negative :
    leads (put ({ start with a := 0x01 }) 0x8000 [0x09, 0x80]) (fun t => t.a == 0x81 && t.snapshot.p == 0xA0) =
      true := by decide

/-- T48 (R183): EOR with itself. -/
theorem test_eor_itself :
    leads (put ({ start with a := 0xA5 }) 0x8000 [0x49, 0xA5]) (fun t => t.a == 0x00 && t.snapshot.p == 0x22) =
      true := by decide

/-- T50 (R184): BIT: Z from A&m, N V from m. -/
theorem test_bit_three_flags :
    leads (put (put ({ start with a := 0x00 }) 0x0010 [0xC0]) 0x8000 [0x24, 0x10]) (fun t => t.a == 0x00 &&
      t.snapshot.p == 0xE2) = true := by decide

/-- T51 (R184): BIT clears V and N. -/
theorem test_bit_clears_v_and_n :
    leads (put (put ({ start with a := 0x01, p := { clear with v := true, n := true } }) 0x0200 [0x3F]) 0x8000
      [0x2C, 0x00, 0x02]) (fun t => t.a == 0x01 && t.snapshot.p == 0x20) = true := by decide

/-- T52 (R191): ASL A 0x80. -/
theorem test_asl_acc :
    leads (put ({ start with a := 0x80 }) 0x8000 [0x0A]) (fun t => t.a == 0x00 && t.snapshot.p == 0x23) = true
      := by decide

/-- T53 (R191): ASL zp. -/
theorem test_asl_zp :
    leads (put (put start 0x0010 [0x41]) 0x8000 [0x06, 0x10]) (fun t => t.byteAt 0x0010 == 0x82 && t.snapshot.p
      == 0xA0) = true := by decide

/-- T54 (R192): LSR A 0x01. -/
theorem test_lsr_acc :
    leads (put ({ start with a := 0x01, p := { clear with n := true } }) 0x8000 [0x4A]) (fun t => t.a == 0x00 &&
      t.snapshot.p == 0x23) = true := by decide

/-- T55 (R193): ROL A with C=1. -/
theorem test_rol_carry_in :
    leads (put ({ start with a := 0x80, p := { clear with c := true } }) 0x8000 [0x2A]) (fun t => t.a == 0x01 &&
      t.snapshot.p == 0x21) = true := by decide

/-- T56 (R194): ROR A with C=1. -/
theorem test_ror_carry_in :
    leads (put ({ start with a := 0x01, p := { clear with c := true } }) 0x8000 [0x6A]) (fun t => t.a == 0x80 &&
      t.snapshot.p == 0xA1) = true := by decide

/-- T57 (R194): ROR abs,X crossing: fixed 7. -/
theorem test_ror_abx_fixed_cost :
    leads (put (put ({ start with x := 0x01 }) 0x0300 [0x02]) 0x8000 [0x7E, 0xFF, 0x02]) (fun t => t.byteAt
      0x0300 == 0x01 && t.cycles == 7) = true := by decide

/-- T58 (R201): BCC not taken. -/
theorem test_bcc_not_taken :
    leads (put ({ start with p := { clear with c := true } }) 0x8000 [0x90, 0x10]) (fun t => t.pc == 0x8002 &&
      t.cycles == 2) = true := by decide

/-- T59 (R201): BCC taken, same page. -/
theorem test_bcc_taken :
    leads (put start 0x8000 [0x90, 0x10]) (fun t => t.pc == 0x8012 && t.cycles == 3) = true := by decide

/-- T60 (R202): BCS taken forward across a page. -/
theorem test_bcs_forward_over_page :
    leads (put ({ start with pc := 0x80FD, p := { clear with c := true } }) 0x80FD [0xB0, 0x01]) (fun t => t.pc
      == 0x8100 && t.cycles == 4) = true := by decide

/-- T61 (R204): BNE taken backward across a page. -/
theorem test_bne_backward_over_page :
    leads (put ({ start with pc := 0x8100 }) 0x8100 [0xD0, 0xFC]) (fun t => t.pc == 0x80FE && t.cycles == 4) =
      true := by decide

/-- T62 (R203): BEQ taken, offset 0. -/
theorem test_beq_offset_zero :
    leads (put ({ start with p := { clear with z := true } }) 0x8000 [0xF0, 0x00]) (fun t => t.pc == 0x8002 &&
      t.cycles == 3) = true := by decide

/-- T63 (R206): BPL taken, wraps past 0xFFFF. -/
theorem test_bpl_wraps_at_top :
    leads (put ({ start with pc := 0xFFF0 }) 0xFFF0 [0x10, 0x7F]) (fun t => t.pc == 0x0071 && t.cycles == 4) =
      true := by decide

/-- T64 (R205): BMI taken, offset -128. -/
theorem test_bmi_minus_128 :
    leads (put ({ start with p := { clear with n := true } }) 0x8000 [0x30, 0x80]) (fun t => t.pc == 0x7F82 &&
      t.cycles == 4) = true := by decide

/-- T65 (R207): BVC not taken. -/
theorem test_bvc_not_taken :
    leads (put ({ start with p := { clear with v := true } }) 0x8000 [0x50, 0x10]) (fun t => t.pc == 0x8002 &&
      t.cycles == 2) = true := by decide

/-- T66 (R208): BVS branch to itself. -/
theorem test_bvs_to_itself :
    leads (put ({ start with p := { clear with v := true } }) 0x8000 [0x70, 0xFE]) (fun t => t.pc == 0x8000 &&
      t.cycles == 3) = true := by decide

/-- T67 (R220): JMP abs. -/
theorem test_jmp_abs :
    leads (put start 0x8000 [0x4C, 0x34, 0x12]) (fun t => t.pc == 0x1234 && t.cycles == 3) = true := by decide

/-- T68 (R220): JMP (ind) page-wrap bug. -/
theorem test_jmp_ind_page_wrap :
    leads (put (put (put (put start 0x0200 [0x12]) 0x02FF [0x34]) 0x0300 [0x56]) 0x8000 [0x6C, 0xFF, 0x02]) (fun
      t => t.pc == 0x1234 && t.cycles == 5) = true := by decide

/-- T70 (R221): JSR. -/
theorem test_jsr :
    leads (put ({ start with sp := 0xFF }) 0x8000 [0x20, 0x00, 0x90]) (fun t => t.byteAt 0x01FF == 0x80 &&
      t.byteAt 0x01FE == 0x02 && t.pc == 0x9000) = true := by decide

/-- T71 (R221): JSR with SP=0x00 wraps. -/
theorem test_jsr_stack_wraps :
    leads (put ({ start with sp := 0x00 }) 0x8000 [0x20, 0x00, 0x90]) (fun t => t.byteAt 0x0100 == 0x80 &&
      t.byteAt 0x01FF == 0x02 && t.sp == 0xFE) = true := by decide

/-- T72 (R222): RTS. -/
theorem test_rts :
    leads (put (put (put ({ start with sp := 0xFD }) 0x01FE [0x02]) 0x01FF [0x80]) 0x8000 [0x60]) (fun t => t.pc
      == 0x8003 && t.sp == 0xFF) = true := by decide

/-- T73 (R222): RTS with SP=0xFF wraps; 0xFFFF+1. -/
theorem test_rts_wraps :
    leads (put (put (put ({ start with sp := 0xFF }) 0x0100 [0xFF]) 0x0101 [0xFF]) 0x8000 [0x60]) (fun t => t.pc
      == 0x0000 && t.sp == 0x01) = true := by decide

/-- T74 (R223): PHA at SP=0x00 wraps. -/
theorem test_pha_wraps :
    leads (put ({ start with a := 0x33, sp := 0x00 }) 0x8000 [0x48]) (fun t => t.byteAt 0x0100 == 0x33 && t.sp
      == 0xFF) = true := by decide

/-- T75 (R224): PLA zero. -/
theorem test_pla_zero :
    leads (put ({ start with a := 0x55, sp := 0xFE }) 0x8000 [0x68]) (fun t => t.a == 0x00 && t.snapshot.p ==
      0x22) = true := by decide

/-- T76 (R225): PHP all clear. -/
theorem test_php_sets_bits_4_and_5 :
    leads (put ({ start with sp := 0xFF }) 0x8000 [0x08]) (fun t => t.byteAt 0x01FF == 0x30 && t.snapshot.p ==
      0x20) = true := by decide

/-- T78 (R226): PLP 0x00 clears all. -/
theorem test_plp_clears_all :
    leads (put ({ start with sp := 0xFE, p := { clear with c := true, z := true, i := true, n := true } })
      0x8000 [0x28]) (fun t => t.sp == 0xFF && t.snapshot.p == 0x20) = true := by decide

/-- T79 (R226): PLP 0xFF. -/
theorem test_plp_sets_all :
    leads (put (put ({ start with sp := 0xFE }) 0x01FF [0xFF]) 0x8000 [0x28]) (fun t => t.sp == 0xFF &&
      t.snapshot.p == 0xFF) = true := by decide

/-- T80 (R240): CLC. -/
theorem test_clc :
    leads (put ({ start with p := { clear with c := true } }) 0x8000 [0x18]) (fun t => t.snapshot.p == 0x20) =
      true := by decide

/-- T81 (R241): SEC. -/
theorem test_sec :
    leads (put start 0x8000 [0x38]) (fun t => t.snapshot.p == 0x21) = true := by decide

/-- T82 (R242): CLD. -/
theorem test_cld :
    leads (put ({ start with p := { clear with d := true } }) 0x8000 [0xD8]) (fun t => t.snapshot.p == 0x20) =
      true := by decide

/-- T83 (R243): SED. -/
theorem test_sed :
    leads (put start 0x8000 [0xF8]) (fun t => t.snapshot.p == 0x28) = true := by decide

/-- T84 (R244): CLI. -/
theorem test_cli :
    leads (put ({ start with p := { clear with i := true } }) 0x8000 [0x58]) (fun t => t.snapshot.p == 0x20) =
      true := by decide

/-- T85 (R245): SEI. -/
theorem test_sei :
    leads (put start 0x8000 [0x78]) (fun t => t.snapshot.p == 0x24) = true := by decide

/-- T86 (R246): CLV. -/
theorem test_clv :
    leads (put ({ start with p := { clear with v := true } }) 0x8000 [0xB8]) (fun t => t.snapshot.p == 0x20) =
      true := by decide

/-- T87 (R247): BRK. -/
theorem test_brk :
    leads (put (put ({ start with sp := 0xFD, p := { clear with c := true } }) 0xFFFE [0x00, 0x90]) 0x8000
      [0x00, 0xEA]) (fun t => t.byteAt 0x01FD == 0x80 && t.byteAt 0x01FC == 0x02 && t.byteAt 0x01FB == 0x31 &&
      t.pc == 0x9000) = true := by decide

/-- T88 (R247): BRK with SP=0x01 wraps, taken with I=1. -/
theorem test_brk_masked_stack_wraps :
    leads (put (put ({ start with sp := 0x01, p := { clear with i := true } }) 0xFFFE [0x00, 0x90]) 0x8000
      [0x00]) (fun t => t.byteAt 0x0101 == 0x80 && t.byteAt 0x0100 == 0x02 && t.byteAt 0x01FF == 0x34 &&
      t.snapshot.p == 0x24) = true := by decide

/-- T89 (R248): RTI. -/
theorem test_rti :
    leads (put (put (put (put ({ start with sp := 0xFA, p := { clear with i := true } }) 0x01FB [0x30]) 0x01FC
      [0x05]) 0x01FD [0x80]) 0x8000 [0x40]) (fun t => t.pc == 0x8005 && t.snapshot.p == 0x30) = true := by
      decide

/-- T90 (R248): RTI ignores bit 5, no +1. -/
theorem test_rti_ignores_bit_5 :
    leads (put (put (put (put ({ start with sp := 0xFA }) 0x01FB [0xC3]) 0x01FC [0xFF]) 0x01FD [0x12]) 0x8000
      [0x40]) (fun t => t.pc == 0x12FF && t.snapshot.p == 0xE3) = true := by decide

/-- T91 (R249): NOP. -/
theorem test_nop :
    leads (put ({ start with a := 0x12, p := { clear with c := true } }) 0x8000 [0xEA]) (fun t => t.pc == 0x8001
      && t.snapshot.p == 0x21) = true := by decide

/-- T93 (R250): undocumented 0x0C (3-byte on silicon): 1 byte here. -/
theorem test_undoc_is_one_byte :
    leads (put start 0x8000 [0x0C, 0x34, 0x12]) (fun t => t.pc == 0x8001 && t.snapshot.p == 0x20) = true := by
      decide

/-- T94 (R280): NMI entry at a boundary, I=1. -/
theorem test_nmi_entry :
    leads (put (put ({ start with sp := 0xFD, p := { clear with i := true }, nmiPending := true }) 0xFFFA [0x00,
      0xA0]) 0x8000 [0xEA]) (fun t => t.byteAt 0x01FD == 0x80 && t.byteAt 0x01FC == 0x00 && t.byteAt 0x01FB ==
      0x24 && t.pc == 0xA000) = true := by decide

/-- T95 (R280): IRQ entry, line active, I=0. -/
theorem test_irq_entry_keeps_b :
    leads (put (put ({ start with sp := 0xFD, p := { clear with b := true }, irqLine := true }) 0xFFFE [0x00,
      0x90]) 0x8000 [0xEA]) (fun t => t.byteAt 0x01FD == 0x80 && t.byteAt 0x01FC == 0x00 && t.byteAt 0x01FB ==
      0x20 && t.snapshot.p == 0x34) = true := by decide

/-- T96 (R278): IRQ masked by I=1: instruction runs. -/
theorem test_irq_masked :
    leads (put (put ({ start with sp := 0xFD, p := { clear with i := true }, irqLine := true }) 0xFFFE [0x00,
      0x90]) 0x8000 [0xEA]) (fun t => t.pc == 0x8001 && t.sp == 0xFD) = true := by decide

/-! ### Reset, power-on, the host's calls -/

/-- S3 (R320): reset from a running state. -/
theorem test_reset_call :
    gives (hostCall .reset (put
        { start with sp := 0xF0, nmiPending := true, cycles := 100, p := { clear with c := true, d := true } }
        0xFFFD [0xC0]))
      (fun t => t.sp == 0xED && t.pc == 0xC000 && t.snapshot.p == 0x2D && !t.nmiPending && t.cycles == 107
        && t.bus.log == [.read 0xFFFD 0xC0, .read 0xFFFC 0x00]) = true := by decide

/-- S4 (R322): power-on with the draw the spec writes out. -/
theorem test_power_on :
    (State.powerOn Config.testLogDraw (put start 0xFFFD [0xC0]).bus).snapshot =
      { a := 0, x := 0, y := 0, sp := 0xFD, pc := 0xC000, p := 0x34, cycles := 7 } := by decide

/-- S5 (R273): two requests before one boundary are one entry. -/
theorem test_two_requests :
    gives (hostCalls [.requestNmi, .requestNmi, .step, .step] (put (put (put start 0xFFFB [0xA0]) 0x8000 [0xEA]) 0xA000 [0xEA]))
      (fun t => t.pc == 0xA001 && t.cycles == 9) = true := by decide

/-- R338: another subsystem writes memory between steps, and the line is driven. -/
theorem test_owner_and_line :
    gives (hostCalls [.ownerWrite 0x8000 0xE8, .setIrqLine true, .setIrqLine false, .step] start)
      (fun t => t.x == 0x01 && !t.irqLine) = true := by decide

/-- `withFetchWord` places the instruction where the next step fetches: LDA #$80 from reset. -/
theorem test_with_fetch_word :
    leads (State.reset.withFetchWord 16 0x80A9) (fun t => t.a == 0x80 && t.p.n) = true := by decide

/-- A store of 0x00 leaves no cell behind, and cells stay in order. -/
theorem test_memory_form :
    Memory.write (Memory.write (Memory.write [] 9 1) 4 2) 9 0 = [(4, 2)] ∧ Memory.wf [(4, 2), (9, 1)] = true ∧
    Memory.wf [(9, 1), (4, 2)] = false ∧ Memory.wf [(4, 0)] = false ∧ Memory.wf [(65536, 1)] = false := by decide

/-- A store into a device's window changes no cell, and is made (log entry 10). -/
theorem test_store_into_window :
    gives (exec (.sta (.abs 0x2000)) (device { start with a := 0x77 } 0x2000 0x3FFF))
      (fun t => t.bus.mem == [] && t.bus.log == [.write 0x2000 0x77]) = true := by decide

/-- R338: the owner's store into a device register is no core write and no cell, but the device's answers see it; its store
into RAM is read back. -/
theorem test_owner_store :
    gives (hostCall (.ownerWrite 0x2002 0x80) (device start 0x2000 0x3FFF))
      (fun t => t.bus.mem == [] && t.bus.log == [.ownerStore 0x2002 0x80]) = true ∧
    gives (hostCall (.ownerWrite 0x0010 0x80) (device start 0x2000 0x3FFF)) (fun t => t.byteAt 0x0010 == 0x80) = true := by
  decide

/-- R338: a change inside a device reaches the next read of its register. -/
theorem test_device_change :
    ∃ t, hostCall (.deviceChange 7) (device start 0x2000 0x3FFF) = .next t ∧
      (operandRead (.addr 0x2002 false) t).1 = Config.busAnswer [.deviceChange 7] 0x2002 := ⟨_, rfl, rfl⟩

/-! ### The assembler's text (R97) -/

theorem test_text :
    Instr.text (.lda (.imm 0x05)) 0x8000 = ['L', 'D', 'A', ' ', '#', '$', '0', '5'] ∧
    Instr.text (.jmp (.ind 0x02FF)) 0x8000 = ['J', 'M', 'P', ' ', '(', '$', '0', '2', 'F', 'F', ')'] ∧
    Instr.text (.bne 0xFC) 0x8100 = ['B', 'N', 'E', ' ', '$', '8', '0', 'F', 'E'] := by decide

/-- P1: `BNE loop` at 0x800A to 0x8004 has the offset byte 0xF8; a target out of range has none. -/
theorem test_branch_offset :
    Asm.branchOffset 0x800A 0x8004 = some 0xF8 ∧ Asm.branchOffset 0x8000 0x8081 = some 0x7F ∧
    Asm.branchOffset 0x8000 0x8082 = none := by decide

/-! ### For every obligation with hypotheses, a state and operands that meet them -/

/-- DecodeInvertsEncode, at the last address and the last undocumented opcode. -/
theorem witness_decode_inverts_encode : (Instr.lda (.abx 0xFFFF)).wf = true ∧ (Instr.undoc 0xFF).wf = true := by decide

/-- EncodeInvertsDecode. -/
theorem witness_encode_inverts_decode : decode [0xBD, 0xFF, 0xFF, 0x00] = .instr (.lda (.abx 0xFFFF)) [0x00] := by decide

/-- DecodeRefusesOnlyMissingBytes: just enough bytes, and one too few. -/
theorem witness_decode_refuses :
    operandBytesOf 0x4C ≤ [(0x34 : Byte), 0x12].length ∧ [(0x34 : Byte)].length < operandBytesOf 0x4C ∧
    operandBytesOf 0xEA ≤ ([] : List Byte).length := by decide

/-- UndocumentedOpcodesAreOneByte: the first and the last value, and a documented one. -/
theorem witness_undocumented :
    (0x02 : Byte) ∈ undocumentedOpcodes ∧ (0xFF : Byte) ∈ undocumentedOpcodes ∧ (0xEA : Byte) ∉ undocumentedOpcodes := by
  decide

/-- StepRunsDecodedInstruction, with an instruction whose bytes wrap past 0xFFFF. -/
theorem witness_step_runs :
    let s := put { start with pc := 0xFFFE } 0xFFFE [0x4C, 0x34, 0x12]
    s.pendingEvent = none ∧
    decode [s.byteAt s.pc, s.byteAt (s.pc + 1), s.byteAt (s.pc + 2)] = .instr (.jmp (.abs 0x1234)) [] ∧
    ∀ k < (Instr.jmp (.abs 0x1234)).size, s.bus.inWindow (s.pc + BitVec.ofNat 16 k) = false := by decide

/-- StepRunsDecodedInstruction, second clause: an opcode fetched from a device, and its two-byte boundary. -/
theorem witness_step_runs_from_device :
    (device start 0x8000 0x8000).pendingEvent = none ∧ decode [0xA9, 0x05] = .instr (.lda (.imm 0x05)) [] := by decide

/-- EveryStepGivesNextState: a well-formed instruction and an ill-formed term. -/
theorem witness_every_step : (Instr.jmp (.ind 0xFFFF)).wf = true ∧ (Instr.jmp (.zp 0)).wf = false := by decide

/-- StepKeepsInvariant: a store at the last address. -/
theorem witness_step_keeps_invariant :
    (put { start with a := 0x5A } 0x8000 [0x8D, 0xFF, 0xFF]).inv = true ∧
    leads (put { start with a := 0x5A } 0x8000 [0x8D, 0xFF, 0xFF]) (fun t => t.byteAt 0xFFFF == 0x5A) = true := by decide

/-- EveryStepGivesNextState, its clause of moves, and HostMovesKeepInvariant: a state with a cell and a device. -/
theorem witness_host_moves : (device (put start 0xFFFF [0x5A]) 0x2000 0x3FFF).inv = true := by decide

/-- ResetMeetsInvariant: a canonical memory with its first and last cell. -/
theorem witness_canonical_memory : Memory.wf [(0, 0x01), (65535, 0xFF)] = true := by decide

/-- StepConsumesTwoToSevenCycles, RegistersChangeOnlyAsListed and the like: a step with a next state, at 2, 7 and
`UNDOC_CYCLES` cycles. -/
theorem witness_step_two_cycles : leads (put start 0x8000 [0xEA]) (fun t => t.cyclesSince start == 2) = true := by decide
theorem witness_step_seven_cycles : leads start (fun t => t.cyclesSince start == 7) = true := by decide
theorem witness_step_undoc_cycles :
    ∃ t, step (put start 0x8000 [0x02]) = .next t ∧ t.cycles = 0 + Config.undocCycles := ⟨_, rfl, rfl⟩

/-- CycleAccounting: a crossing and a taken branch. -/
theorem witness_cycle_accounting :
    dispatch (.lda (.abx 0x10F0)) = some { opcode := 0xBD, base := 4, pen := true } ∧
    (resolve (.abx 0x10F0) { start with x := 0x20 }).1.crossed = true ∧ Claims.branchTaken (.bcc 0x10) start = true := by
  decide

/-- PagePenaltySet: a row with the penalty and one without. -/
theorem witness_page_penalty_set :
    dispatch (.ldx (.aby 0)) = some { opcode := 0xBE, base := 4, pen := true } ∧
    dispatch (.sta (.aby 0)) = some { opcode := 0x99, base := 5, pen := false } := by decide

/-- AccessesAreExactlyThese. -/
theorem witness_accesses : (Instr.inc (.abx 0x04FF)).wf = true ∧ (Instr.lda (.izy 0xFF)).wf = true := by decide

/-- LoadsTakeOperand. -/
theorem witness_loads : (Instr.lda (.izx 0xFF)).wf = true ∧ (Instr.ldx (.zpy 0xFF)).wf = true ∧
    (Instr.ldy (.abx 0xFFFF)).wf = true := by decide

/-- OperandAccessByMode, StoresWriteOneByte, MemoryIncrementDecrement, ShiftsAndRotates, JsrPushesReturnAddress,
PushesStoreOneByte, and the entries: stored bytes in plain memory, the stack ones at a stack pointer that wraps. -/
theorem witness_plain_stores :
    Claims.Plain (device start 0x2000 0x3FFF).bus [(0x1FFF, 0x01)] ∧
    Claims.Plain (device start 0x2000 0x3FFF).bus [(Claims.slot 0x00, 0x80), (Claims.slot 0xFF, 0x02)] ∧
    Claims.Plain (device start 0x2000 0x3FFF).bus (Claims.frame { start with sp := 0x01 } 0x8002 true) := by
  refine ⟨?_, ?_, ?_⟩ <;> simp only [Claims.Plain, Claims.frame, List.forall_mem_cons]
  · exact ⟨rfl, List.forall_mem_nil _⟩
  · exact ⟨rfl, rfl, List.forall_mem_nil _⟩
  · exact ⟨rfl, rfl, rfl, List.forall_mem_nil _⟩

/-- StoresWriteOneByte: every member of the list, well formed. -/
theorem witness_stores : ∀ iv ∈ [(Instr.sta (.zp 0xFF), start.a), (.stx (.zp 0xFF), start.x), (.sty (.zp 0xFF), start.y)],
    iv.1.wf = true := by decide

/-- MemoryIncrementDecrement. -/
theorem witness_inc_dec : (Instr.inc (.zpx 0xFF)).wf = true ∧ (Instr.dec (.abx 0xFFFF)).wf = true := by decide

/-- RepeatedIncrementWraps, at the first k that its Z clause covers. -/
theorem witness_repeated_increment : (1 : Nat) ≤ 1 ∧ gives (Claims.execAll (List.replicate 1 .inx) { start with x := 0xFF })
    (fun t => t.x == 0x00 && t.p.z) = true := by decide

/-- AdcAddsWithCarry, SbcSubtractsWithBorrow. -/
theorem witness_adc_sbc : (Instr.adc (.imm 0x50)).wf = true ∧ (Instr.sbc (.imm 0xB0)).wf = true := by decide

/-- ComparesSetFlags. -/
theorem witness_compares : ∀ i ∈ [Instr.cmp (.abs 0x0200), .cpx (.abs 0x0200), .cpy (.abs 0x0200)], i.wf = true := by decide

/-- LogicWritesA, BitTestsMemory. -/
theorem witness_logic : ∀ i ∈ [Instr.and (.imm 0x0F), .ora (.imm 0x0F), .eor (.imm 0x0F), .bit (.zp 0x10)],
    i.wf = true := by decide

/-- ShiftsAndRotates, its memory clause. -/
theorem witness_memory_shifts : (Operand.zpx 0xFF).isShiftForm = true ∧ Operand.zpx 0xFF ≠ .acc := by decide

/-- PushThenPullRestores, RtsAfterJsrReturns, ReturnFromInterruptResumes: a flat bus, and a bus whose windows leave the
stack page alone. -/
theorem witness_plain_stack : Claims.PlainStack start := fun _ => rfl
theorem witness_plain_stack_with_device :
    (device start 0x0200 0xFFFF).bus.inWindow (Claims.slot 0x00) = false ∧
    (device start 0x0200 0xFFFF).bus.inWindow (Claims.slot 0xFF) = false := by decide

/-- ReturnFromInterruptResumes: an NMI and an IRQ to return from. -/
theorem witness_pending_events :
    State.pendingEvent { start with nmiPending := true } = some .nmi ∧
    State.pendingEvent { start with irqLine := true } = some .irq := by decide

/-- RegistersChangeOnlyAsListed, FlagsChangeOnlyAsListed, MemoryAndPcChangeOnlyAsListed: TXS completes and is on no list
but that of SP. -/
theorem witness_frames :
    gives (exec .txs start) (fun t => t.sp == 0x00) = true ∧ Claims.writesA .txs = false ∧ Claims.writesX .txs = false ∧
    Claims.writesY .txs = false ∧ Claims.writesC .txs = false ∧ Claims.writesZN .txs = false ∧
    Claims.writesI .txs = false ∧ Claims.writesD .txs = false ∧ Claims.writesB .txs = false ∧
    Claims.writesV .txs = false ∧ Claims.writesPc .txs = false ∧ Claims.writesMemory .txs = false ∧
    Claims.writesSp .nop = false := by decide

/-- DecimalFlagIsInert: a writer of D, and an instruction of the other clause. -/
theorem witness_decimal_flag : Claims.writesD .plp = true ∧ Claims.writesD (.adc (.imm 0x01)) = false ∧
    Instr.adc (.imm 0x01) ≠ .php ∧ Instr.adc (.imm 0x01) ≠ .brk := by decide

/-- DecimalFlagIsInert, BRK and the entries: the vectors in plain memory beside a device. -/
theorem witness_plain_vectors :
    (device start 0x2000 0x3FFF).bus.inWindow 0xFFFE = false ∧ (device start 0x2000 0x3FFF).bus.inWindow 0xFFFF = false ∧
    (device start 0x2000 0x3FFF).bus.inWindow Event.nmi.vector = false ∧
    (device start 0x2000 0x3FFF).bus.inWindow (Event.nmi.vector + 1) = false := by decide

/-- BreakFlagIsInert: a writer of B, and PHP, which is none. -/
theorem witness_break_flag : Claims.writesB .rti = true ∧ Claims.writesB .php = false := by decide

/-- NmiIsEnteredFirst: with the IRQ line active and unmasked too. -/
theorem witness_nmi_first :
    let s := { start with nmiPending := true, irqLine := true }
    s.nmiPending = true ∧ s.p.i = false := by decide

/-- IrqIsEnteredWhenUnmasked: an unmasked line, a masked one, an inactive one. -/
theorem witness_irq :
    (let s := { start with irqLine := true }
     s.nmiPending = false ∧ s.irqLine = true ∧ s.p.i = false) ∧
    (let s := { start with irqLine := true, p := { clear with i := true } }
     s.nmiPending = false ∧ (s.irqLine = false ∨ s.p.i = true)) ∧
    (start.nmiPending = false ∧ (start.irqLine = false ∨ start.p.i = true)) := by decide

/-- ChangeOfMaskCountsAtOnce, by PLP and by RTI: a pulled I of 0 and of 1. -/
theorem witness_change_of_mask :
    (let s := { start with irqLine := true, p := { clear with i := true } }
     s.irqLine = true ∧ s.nmiPending = false ∧ gives (exec .plp s) (fun t => !t.p.i) = true) ∧
    (let s := put { start with irqLine := true } 0x01FE [0x04]
     s.irqLine = true ∧ s.nmiPending = false ∧ gives (exec .plp s) (fun t => t.p.i) = true) ∧
    (let s := { start with irqLine := true, p := { clear with i := true } }
     s.irqLine = true ∧ s.nmiPending = false ∧ gives (exec .rti s) (fun t => !t.p.i) = true) ∧
    (let s := put { start with irqLine := true } 0x01FE [0x04]
     s.irqLine = true ∧ s.nmiPending = false ∧ gives (exec .rti s) (fun t => t.p.i) = true) := by decide

/-- StatusByteRoundTrip has no hypothesis; InterruptInputs needs a step with a next state. -/
theorem witness_interrupt_inputs :
    leads { start with nmiPending := true, irqLine := true } (fun t => t.irqLine && !t.nmiPending) = true := by decide

/-- StoreIsSeenByNextFetch: STA, STX and STY to the address of the next instruction. -/
theorem witness_store_seen :
    (∀ iv ∈ [(Instr.sta (.abs 0x8000), start.a), (.stx (.abs 0x8000), start.x), (.sty (.abs 0x8000), start.y)],
      iv.1.wf = true) ∧
    Claims.dataAddr (.abs 0x8000) start = some start.pc ∧ start.bus.inWindow start.pc = false := by decide

/-- StoreIsSeenByNextFetch, second clause: INC of the next instruction's operand byte makes `LDA #$0F` an `LDA #$10`. -/
theorem witness_operand_store_seen :
    gives (exec (.inc (.abs 0x8001)) (put start 0x8000 [0xA9, 0x0F]))
      (fun t => t.bus.log == [.write 0x8001 0x10, .read 0x8001 0x0F] && t.fetchInstr.1 == .lda (.imm 0x10)) = true ∧
    Claims.afterWrites 0x8001 0x0F [.write 0x8001 0x10, .read 0x8001 0x0F] = 0x10 ∧
    decode [0xA9, 0x10, 0x00] = .instr (.lda (.imm 0x10)) [0x00] ∧
    ∀ k < (Instr.lda (.imm 0x10)).size, start.bus.inWindow (start.pc + BitVec.ofNat 16 k) = false := by decide

/-- MemoryHoldsNewestWrites: a read of plain memory before the write of the same byte, and a window. -/
theorem witness_memory_follows :
    (Instr.inc (.abs 0x8001)).wf = true ∧ (device start 0x2000 0x3FFF).bus.inWindow 0x8001 = false ∧
    ([.write 0x8001 0x10, .read 0x8001 0x0F] : List BusEvent) = [.write 0x8001 0x10] ++ .read 0x8001 0x0F :: [] ∧
    (device start 0x2000 0x3FFF).bus.inWindow 0x3FFF = true := by decide

/-- OwnerChangesReachReads: the last address of a window, and the first one past it. -/
theorem witness_owner_changes :
    (device start 0x2000 0x3FFF).bus.inWindow 0x3FFF = true ∧
    (device start 0x2000 0x3FFF).bus.inWindow 0x4000 = false := by decide

/-- EndOfRunSpins: `JMP` to itself, its bytes wrapping past 0xFFFF. -/
theorem witness_end_of_run :
    let s := put { start with pc := 0xFFFE } 0xFFFE [0x4C, 0xFE, 0xFF]
    s.endOfRun = true ∧ ∀ k < 3, s.bus.inWindow (s.pc + BitVec.ofNat 16 k) = false := by decide

end Sys2Proof.Tests
end

section
/-! What each meaning may change, said once for all instructions, and what follows for the step: it keeps the invariant,
its cost, and the registers, flags, memory and inputs it leaves alone. -/

namespace Sys2Proof.Machine

/-! ### The parts of the state an instruction writes -/

/-- Which parts of the state may change: A, X, Y, SP, PC, the flags (Z and N together, R36) and memory. -/
structure Written where
  a : Bool := false
  x : Bool := false
  y : Bool := false
  sp : Bool := false
  pc : Bool := false
  c : Bool := false
  zn : Bool := false
  i : Bool := false
  d : Bool := false
  b : Bool := false
  v : Bool := false
  mem : Bool := false

/-- The parts that the rules list as written by the instruction (R21 to R34, R79, R103). -/
def written (i : Instr) : Written :=
  { a := Claims.writesA i, x := Claims.writesX i, y := Claims.writesY i, sp := Claims.writesSp i,
    pc := Claims.writesPc i, c := Claims.writesC i, zn := Claims.writesZN i, i := Claims.writesI i,
    d := Claims.writesD i, b := Claims.writesB i, v := Claims.writesV i, mem := Claims.writesMemory i }

/-- From `s` to `t` only the parts `w` and the bus's history change, and the invariant is kept. -/
structure ChangesOnly (w : Written) (s t : State) : Prop where
  a : w.a = false → t.a = s.a
  x : w.x = false → t.x = s.x
  y : w.y = false → t.y = s.y
  sp : w.sp = false → t.sp = s.sp
  pc : w.pc = false → t.pc = s.pc
  c : w.c = false → t.p.c = s.p.c
  z : w.zn = false → t.p.z = s.p.z
  n : w.zn = false → t.p.n = s.p.n
  i : w.i = false → t.p.i = s.p.i
  d : w.d = false → t.p.d = s.p.d
  b : w.b = false → t.p.b = s.p.b
  v : w.v = false → t.p.v = s.p.v
  mem : w.mem = false → t.bus.mem = s.bus.mem
  nmiPending : t.nmiPending = s.nmiPending
  irqLine : t.irqLine = s.irqLine
  windows : t.bus.windows = s.bus.windows
  cycles : t.cycles = s.cycles
  inv : s.inv = true → t.inv = true

theorem State.inv_iff (s : State) : s.inv = true ↔ Memory.wf s.bus.mem = true ∧ s.ic = .running := by
  simp [State.inv]

theorem ChangesOnly.refl (s : State) : ChangesOnly {} s s := by
  constructor <;> simp

/-- A change that writes nothing, then one that writes `w`. -/
theorem ChangesOnly.trans {w : Written} {s t u : State} (h : ChangesOnly {} s t) (k : ChangesOnly w t u) :
    ChangesOnly w s u where
  a hw := (k.a hw).trans (h.a rfl)
  x hw := (k.x hw).trans (h.x rfl)
  y hw := (k.y hw).trans (h.y rfl)
  sp hw := (k.sp hw).trans (h.sp rfl)
  pc hw := (k.pc hw).trans (h.pc rfl)
  c hw := (k.c hw).trans (h.c rfl)
  z hw := (k.z hw).trans (h.z rfl)
  n hw := (k.n hw).trans (h.n rfl)
  i hw := (k.i hw).trans (h.i rfl)
  d hw := (k.d hw).trans (h.d rfl)
  b hw := (k.b hw).trans (h.b rfl)
  v hw := (k.v hw).trans (h.v rfl)
  mem hw := (k.mem hw).trans (h.mem rfl)
  nmiPending := k.nmiPending.trans h.nmiPending
  irqLine := k.irqLine.trans h.irqLine
  windows := k.windows.trans h.windows
  cycles := k.cycles.trans h.cycles
  inv hs := k.inv (h.inv hs)

/-- Setting Z and N from a value, last, adds those two flags to what changes (R36). -/
theorem ChangesOnly.setZN {w : Written} {s t : State} (h : ChangesOnly w s t) (v : Byte) :
    ChangesOnly { w with zn := true } s (t.setP (s.p.setZN v)) :=
  { h with
    c := fun _ => rfl, z := nofun, n := nofun, i := fun _ => rfl, d := fun _ => rfl, b := fun _ => rfl, v := fun _ => rfl }

/-! ### The shared operations -/

theorem setA_changesOnly (s : State) (v : Byte) : ChangesOnly { a := true } s (s.setA v) := by
  constructor <;> simp [State.inv_iff]

theorem setX_changesOnly (s : State) (v : Byte) : ChangesOnly { x := true } s (s.setX v) := by
  constructor <;> simp [State.inv_iff]

theorem setY_changesOnly (s : State) (v : Byte) : ChangesOnly { y := true } s (s.setY v) := by
  constructor <;> simp [State.inv_iff]

theorem setSp_changesOnly (s : State) (v : Byte) : ChangesOnly { sp := true } s (s.setSp v) := by
  constructor <;> simp [State.inv_iff]

theorem setPc_changesOnly (s : State) (v : Addr) : ChangesOnly { pc := true } s (s.setPc v) := by
  constructor <;> simp [State.inv_iff]

theorem memWrite_changesOnly (s : State) (a : Addr) (v : Byte) : ChangesOnly { mem := true } s (s.memWrite a v) := by
  constructor <;> simp +contextual [State.inv_iff, Bus.stored_wf]

theorem push_changesOnly (s : State) (v : Byte) : ChangesOnly { sp := true, mem := true } s (s.push v) := by
  constructor <;> simp +contextual [State.inv_iff, Bus.stored_wf]

theorem resolve_changesOnly (o : Operand) (s : State) : ChangesOnly {} s (resolve o s).2 := by
  constructor <;> simp [State.inv_iff]

theorem operandRead_changesOnly (r : Target) (s : State) : ChangesOnly {} s (operandRead r s).2 := by
  constructor <;> simp [State.inv_iff]

theorem operandWrite_changesOnly {r : Target} (hr : r ≠ .acc) (v : Byte) (s : State) :
    ChangesOnly { mem := true } s (operandWrite r v s) := by
  cases r with
  | addr ea _ => exact memWrite_changesOnly s ea v
  | acc => exact absurd rfl hr
  | none | imm _ | rel _ => constructor <;> simp [operandWrite]

theorem jumpTo_changesOnly (r : Target) (s : State) : ChangesOnly { pc := true } s (jumpTo r s) := by
  cases r with
  | addr ea _ => exact setPc_changesOnly s ea
  | rel target => exact setPc_changesOnly s target
  | none | acc | imm _ => constructor <;> simp [jumpTo]

theorem load_changesOnly {w : Written} {set : State → Byte → State} (hset : ∀ s v, ChangesOnly w s (set s v))
    (r : Target) (s : State) : ChangesOnly { w with zn := true } s (load set r s) :=
  (operandRead_changesOnly r s).trans ((hset _ _).setZN _)

theorem store_changesOnly (get : State → Byte) {r : Target} (hr : r ≠ .acc) (s : State) :
    ChangesOnly { mem := true } s (store get r s) := operandWrite_changesOnly hr _ s

theorem transfer_changesOnly {w : Written} {set : State → Byte → State} (hset : ∀ s v, ChangesOnly w s (set s v))
    (get : State → Byte) (s : State) : ChangesOnly { w with zn := true } s (transfer set get s) := (hset s _).setZN _

theorem bump_changesOnly {w : Written} {set : State → Byte → State} (hset : ∀ s v, ChangesOnly w s (set s v))
    (get : State → Byte) (f : Byte → Byte) (s : State) : ChangesOnly { w with zn := true } s (bump set get f s) :=
  (hset s _).setZN _

theorem modifyByte_changesOnly (f : Byte → Byte) {r : Target} (hr : r ≠ .acc) (s : State) :
    ChangesOnly { mem := true, zn := true } s (modifyByte f r s) :=
  (operandRead_changesOnly r s).trans ((operandWrite_changesOnly hr _ _).setZN _)

theorem logicToA_changesOnly (f : Byte → Byte → Byte) (r : Target) (s : State) :
    ChangesOnly { a := true, zn := true } s (logicToA f r s) :=
  (operandRead_changesOnly r s).trans ((setA_changesOnly _ _).setZN _)

theorem pullA_changesOnly (s : State) : ChangesOnly { a := true, sp := true, zn := true } s (pullA s) := by
  constructor <;> simp [pullA, Flags.setZN, State.inv_iff]

theorem addToA_changesOnly (f : Byte → Byte) (r : Target) (s : State) :
    ChangesOnly { a := true, c := true, zn := true, v := true } s (addToA f r s) := by
  constructor <;> simp [addToA, Flags.ofAdd, State.inv_iff]

theorem compareWith_changesOnly (get : State → Byte) (r : Target) (s : State) :
    ChangesOnly { c := true, zn := true } s (compareWith get r s) := by
  constructor <;> simp [compareWith, Flags.ofCompare, State.inv_iff]

theorem bitTest_changesOnly (r : Target) (s : State) : ChangesOnly { zn := true, v := true } s (bitTest r s) := by
  constructor <;> simp [bitTest, Flags.ofBit, State.inv_iff]

/-- A shift writes A in its accumulator form and memory in the others (R190). -/
theorem shift_changesOnly (f : ShiftFn) {r : Target} {acc : Bool} (hr : (r == .acc) = acc) (s : State) :
    ChangesOnly { a := acc, mem := !acc, c := true, zn := true } s (shift f r s) := by
  subst hr
  cases r <;> constructor <;>
    simp +contextual [shift, operandRead, operandWrite, Flags.ofShift, Flags.setZN, State.inv_iff, Bus.stored_wf]

theorem branch_changesOnly (cond : State → Bool) (r : Target) (s : State) :
    ChangesOnly { pc := true } s (branch cond r s).1 := by
  unfold branch
  split
  · exact jumpTo_changesOnly r s
  · constructor <;> simp

theorem callSub_changesOnly (r : Target) (s : State) :
    ChangesOnly { sp := true, pc := true, mem := true } s (callSub r s) := by
  cases r <;> constructor <;> simp +contextual [callSub, jumpTo, State.inv_iff, State.pushWord_bus, Bus.stored_wf]

theorem returnSub_changesOnly (s : State) : ChangesOnly { sp := true, pc := true } s (returnSub s) := by
  constructor <;> simp [returnSub, State.inv_iff]

theorem pullStatus_changesOnly (s : State) :
    ChangesOnly { sp := true, c := true, zn := true, i := true, d := true, b := true, v := true } s s.pullStatus := by
  constructor <;> simp [State.inv_iff]

theorem returnFromInterrupt_changesOnly (s : State) :
    ChangesOnly { sp := true, pc := true, c := true, zn := true, i := true, d := true, b := true, v := true } s
      s.returnFromInterrupt := by
  constructor <;> simp [State.inv_iff, State.returnFromInterrupt_bus]

theorem enterInterrupt_changesOnly (s : State) (e : Event) :
    ChangesOnly { sp := true, pc := true, i := true, mem := true } s (s.enterInterrupt e) := by
  constructor <;> simp +contextual [State.inv_iff, State.enterInterrupt_wf]

/-! ### Every instruction -/

/-- Only the shifts and rotates have an accumulator form, which writes A (R191 to R194). -/
theorem writesA_of_operand_acc {i : Instr} (hwf : i.wf = true) (h : i.operand = .acc) : Claims.writesA i = true := by
  cases i with
  | asl _ | lsr _ | rol _ | ror _ => cases h; rfl
  | _ => cases h <;> cases hwf

/-- A meaning changes only the parts that the rules list for its instruction. -/
theorem semOf_changesOnly {i : Instr} {r : Target} (hwf : i.wf = true) (hr : (r == .acc) = (i.operand == .acc))
    (s : State) : ChangesOnly (written i) s (semOf i r s).1 := by
  have hne (ha : Claims.writesA i = false) : r ≠ .acc := by
    rintro rfl
    simp [writesA_of_operand_acc hwf (beq_iff_eq.mp hr.symm)] at ha
  cases i with
  | lda _ => exact load_changesOnly setA_changesOnly r s
  | ldx _ => exact load_changesOnly setX_changesOnly r s
  | ldy _ => exact load_changesOnly setY_changesOnly r s
  | sta _ | stx _ | sty _ => exact store_changesOnly _ (hne rfl) s
  | tax | tsx => exact transfer_changesOnly setX_changesOnly _ s
  | tay => exact transfer_changesOnly setY_changesOnly _ s
  | txa | tya => exact transfer_changesOnly setA_changesOnly _ s
  | txs => exact setSp_changesOnly s _
  | inc _ | dec _ => exact modifyByte_changesOnly _ (hne rfl) s
  | inx | dex => exact bump_changesOnly setX_changesOnly _ _ s
  | iny | dey => exact bump_changesOnly setY_changesOnly _ _ s
  | adc _ | sbc _ => exact addToA_changesOnly _ r s
  | cmp _ | cpx _ | cpy _ => exact compareWith_changesOnly _ r s
  | and _ | ora _ | eor _ => exact logicToA_changesOnly _ r s
  | bit _ => exact bitTest_changesOnly r s
  | asl _ | lsr _ | rol _ | ror _ => exact shift_changesOnly _ hr s
  | bcc _ | bcs _ | beq _ | bne _ | bmi _ | bpl _ | bvc _ | bvs _ => exact branch_changesOnly _ r s
  | jmp _ => exact jumpTo_changesOnly r s
  | jsr _ => exact callSub_changesOnly r s
  | rts => exact returnSub_changesOnly s
  | pha | php => exact push_changesOnly s _
  | pla => exact pullA_changesOnly s
  | plp => exact pullStatus_changesOnly s
  | clc | sec | cld | sed | cli | sei | clv =>
    constructor <;>
      simp [semOf, plainSem, State.inv_iff, written, Claims.writesC, Claims.writesI, Claims.writesD, Claims.writesV]
  | brk => exact enterInterrupt_changesOnly s .brk
  | rti => exact returnFromInterrupt_changesOnly s
  | nop | undoc _ => exact .refl s

/-- The resolver gives the accumulator for the accumulator form and no other (R66). -/
theorem resolve_fst_beq_acc (o : Operand) (s : State) : ((resolve o s).1 == .acc) = (o == .acc) := by
  cases o <;> rfl

theorem wf_of_dispatch {i : Instr} {e : Row} (h : dispatch i = some e) : i.wf = true := by
  rw [← dispatch_isSome, h]
  rfl

/-- What an instruction does when it completes: it changes the parts listed for it, then its cycles are added. -/
theorem exec_changesOnly {i : Instr} {s t : State} (h : exec i s = .next t) :
    ∃ u n, ChangesOnly (written i) s u ∧ t = u.addCycles n := by
  obtain ⟨e, he, rfl⟩ := exec_next_inv h
  exact ⟨_, _,
    (resolve_changesOnly _ s).trans (semOf_changesOnly (wf_of_dispatch he) (resolve_fst_beq_acc _ s) _), rfl⟩

/-! ### The invariant -/

theorem exec_keeps_inv {i : Instr} {s t : State} (hs : s.inv = true) (h : exec i s = .next t) : t.inv = true := by
  obtain ⟨u, n, hu, rfl⟩ := exec_changesOnly h
  exact hu.inv hs

theorem takeEvent_keeps_inv {s : State} (hs : s.inv = true) (e : Event) : (s.takeEvent e).inv = true := by
  rw [State.inv_iff] at hs ⊢
  exact ⟨State.takeEvent_wf hs.1 e, State.takeEvent_ic s e⟩

/-- A fetch changes PC and the history alone, so it keeps the invariant. -/
theorem fetchInstr_inv (s : State) : s.fetchInstr.2.inv = s.inv := by
  obtain ⟨_, _, _, _, hs⟩ := fetchInstr_spec s
  rw [hs]
  rfl

theorem step_keeps_inv {s t : State} (hs : s.inv = true) (h : step s = .next t) : t.inv = true := by
  unfold step at h
  split at h
  · cases h
    exact takeEvent_keeps_inv hs _
  · exact exec_keeps_inv ((fetchInstr_inv s).trans hs) h

/-- Every step has a next state: what is fetched is well formed (R99, R104, R270). -/
theorem step_total (s : State) : ∃ t, step s = .next t := by
  unfold step
  split
  · exact ⟨_, rfl⟩
  · obtain ⟨e, he⟩ := row_of_wf (fetchInstr_wf s)
    exact ⟨_, exec_of_row he _⟩

theorem hostCall_total (k : HostCall) (s : State) : ∃ t, hostCall k s = .next t := by
  cases k with
  | step => exact step_total s
  | reset | requestNmi | setIrqLine _ | ownerWrite _ _ | deviceChange _ => exact ⟨_, rfl⟩

theorem hostCall_keeps_inv {k : HostCall} {s t : State} (hs : s.inv = true) (h : hostCall k s = .next t) :
    t.inv = true := by
  obtain ⟨-, h⟩ | ⟨-, rfl⟩ | ⟨-, rfl⟩ | ⟨_, -, rfl⟩ | ⟨a, v, -, rfl⟩ | ⟨_, -, rfl⟩ := hostCall_next_inv h
  · exact step_keeps_inv hs h
  · simpa [State.inv_iff] using ((State.inv_iff s).mp hs).1
  · exact hs
  · exact hs
  · obtain ⟨hwf, hic⟩ := (State.inv_iff s).mp hs
    exact (State.inv_iff _).mpr ⟨Bus.stored_wf hwf a v, hic⟩
  · exact hs

/-- Settles O9, from what every entry and every instruction keep. -/
theorem stepKeepsInvariant : Obligations.StepKeepsInvariant := fun _ _ hs h => step_keeps_inv hs h

/-- Settles O11: every move completes, and keeps the invariant. -/
theorem hostMovesKeepInvariant : Obligations.HostMovesKeepInvariant := fun k s hs =>
  (hostCall_total k s).imp fun _ ht => ⟨ht, hostCall_keeps_inv hs ht⟩

/-! ### The cost of a step -/

/-- A row costs 2 to 7 cycles, its penalty included, or it is a fallback's, which costs `UNDOC_CYCLES` (R101, R250). -/
theorem dispatch_cost {i : Instr} {e : Row} (h : dispatch i = some e) :
    (2 ≤ e.base ∧ e.base + (if e.pen then 1 else 0) ≤ 7) ∨ (e.base = Config.undocCycles ∧ e.pen = false) := by
  cases i with
  | undoc opc =>
    simp only [dispatch] at h
    split at h <;> cases h
    exact .inr ⟨rfl, rfl⟩
  | lda o | ldx o | ldy o | sta o | stx o | sty o | inc o | dec o | adc o | sbc o | cmp o | cpx o | cpy o | and o
  | ora o | eor o | bit o | asl o | lsr o | rol o | ror o | jmp o =>
    cases o <;> cases h <;> exact .inl (by decide)
  | _ => cases h; exact .inl (by decide)

/-- A row pays the penalty at most when it has one (R101). -/
theorem penalty_le (pen crossed : Bool) : (if pen && crossed then 1 else 0) ≤ (if pen then 1 else 0) := by
  cases pen <;> cases crossed <;> decide

/-- A branch adds at most two cycles (R200). -/
theorem branch_extra_le (cond : State → Bool) (r : Target) (s : State) : (branch cond r s).2 ≤ 2 := by
  unfold branch
  split
  · show 1 + (if _ then 1 else 0) ≤ 2
    split <;> omega
  · exact Nat.zero_le 2

/-- Only a branch has an extra, at most two cycles over its base of two (R100, R200). -/
theorem semOf_extra (i : Instr) (r : Target) (s : State) :
    (semOf i r s).2 = 0 ∨
      ((semOf i r s).2 ≤ 2 ∧ ∃ opc, dispatch i = some { opcode := opc, base := 2, pen := false }) := by
  cases i with
  | bcc _ | bcs _ | beq _ | bne _ | bmi _ | bpl _ | bvc _ | bvs _ => exact .inr ⟨branch_extra_le _ r s, _, rfl⟩
  | _ => exact .inl rfl

/-- What an instruction that completes adds to the cycle counter. -/
theorem exec_cost {i : Instr} {s t : State} (h : exec i s = .next t) :
    ∃ n, t.cycles = s.cycles + n ∧ ((2 ≤ n ∧ n ≤ 7) ∨ n = Config.undocCycles) := by
  obtain ⟨e, he, rfl⟩ := exec_next_inv h
  have hc := (semOf_changesOnly (wf_of_dispatch he) (resolve_fst_beq_acc i.operand s) (resolve i.operand s).2).cycles
  refine ⟨_, by rw [runRow_cycles, hc, resolve_cycles], ?_⟩
  obtain hx | ⟨hx, opc, hb⟩ := semOf_extra i (resolve i.operand s).1 (resolve i.operand s).2
  · rw [hx]
    obtain ⟨hlo, hhi⟩ | ⟨hu, hp⟩ := dispatch_cost he
    · have := penalty_le e.pen (resolve i.operand s).1.crossed
      omega
    · right
      simp [hu, hp]
  · obtain rfl := Option.some.inj (he.symm.trans hb)
    left
    simp only [Bool.false_and, Bool.false_eq_true, if_false]
    omega

theorem step_cost {s t : State} (h : step s = .next t) :
    ∃ n, t.cycles = s.cycles + n ∧ ((2 ≤ n ∧ n ≤ 7) ∨ n = Config.undocCycles) := by
  obtain ⟨e, -, rfl⟩ | ⟨hp, -⟩ := step_next_inv h
  · exact ⟨7, State.takeEvent_cycles s e, .inl (by decide)⟩
  · obtain ⟨_, _, _, _, hs⟩ := fetchInstr_spec s
    rw [step, hp] at h
    obtain ⟨n, hn, hr⟩ := exec_cost h
    exact ⟨n, by rw [hn, hs], hr⟩

/-- Settles O12: the counter grows by what the step costs. -/
theorem stepConsumesTwoToSevenCycles : Obligations.StepConsumesTwoToSevenCycles := by
  intro s t h
  obtain ⟨n, hn, hr⟩ := step_cost h
  have hd : t.cyclesSince s = n := by rw [State.cyclesSince, hn]; omega
  exact ⟨by omega, hd ▸ hr⟩

/-! ### Registers, flags, memory and inputs -/

/-- Settles O44, from what every meaning leaves unchanged. -/
theorem registersChangeOnlyAsListed : Obligations.RegistersChangeOnlyAsListed := by
  refine ⟨fun i s t h => ?_, fun e s => ⟨State.takeEvent_a s e, State.takeEvent_x s e, State.takeEvent_y s e⟩⟩
  obtain ⟨u, n, hu, rfl⟩ := exec_changesOnly h
  exact ⟨hu.a, hu.x, hu.y, hu.sp⟩

/-- Settles O45, from what every meaning leaves unchanged. -/
theorem flagsChangeOnlyAsListed : Obligations.FlagsChangeOnlyAsListed := by
  intro i s t h
  obtain ⟨u, n, hu, rfl⟩ := exec_changesOnly h
  exact ⟨hu.c, fun hw => ⟨hu.z hw, hu.n hw⟩, hu.i, hu.d, hu.b, hu.v⟩

/-- Settles O46, from what every meaning leaves unchanged. -/
theorem memoryAndPcChangeOnlyAsListed : Obligations.MemoryAndPcChangeOnlyAsListed := by
  intro i s t h
  obtain ⟨u, n, hu, rfl⟩ := exec_changesOnly h
  exact ⟨hu.mem, hu.pc, hu.nmiPending, hu.irqLine, hu.windows⟩

end Sys2Proof.Machine
end

section
/-! The status byte, and the two flags no computation reads: D reaches only itself and the pushed status byte, the stored
B only itself. -/

namespace Sys2Proof.Machine

/-! ### The status byte (R37, R38) -/

theorem Flags.pack_eq_statusByte (p : Flags) (b : Bool) : p.pack b = Claims.statusByte p b := by
  obtain ⟨c, z, i, d, pb, v, n⟩ := p
  simp only [Flags.pack, Claims.statusByte]
  decide +revert

theorem Flags.pack_bit5 (p : Flags) (b : Bool) : (p.pack b).getLsbD 5 = true := by
  obtain ⟨c, z, i, d, pb, v, n⟩ := p
  simp only [Flags.pack]
  decide +revert

theorem Flags.pack_unpack (v : Byte) : (Flags.unpack v).pack (v.getLsbD 4) = v ||| 0x20 := by
  obtain ⟨k⟩ := v
  revert k
  set_option maxRecDepth 100000 in decide

/-- Settles O53, from the layout of the packed byte and the two round trips. -/
theorem statusByteRoundTrip : Obligations.StatusByteRoundTrip :=
  ⟨fun p b => ⟨p.pack_eq_statusByte b, p.pack_bit5 b, p.unpack_pack b⟩,
    fun v => ⟨rfl, Flags.pack_unpack v⟩,
    fun s => ⟨s.p.pack_bit5 _, s.p.unpack_pack _⟩⟩

/-! ### A change of D and B commutes with every meaning that does not use them -/

/-- The flags with D changed by `g` and B by `h`. -/
def Flags.mapDB (g h : Bool → Bool) (p : Flags) : Flags := { p with d := g p.d, b := h p.b }

/-- The state with D changed by `g` and B by `h`; `Claims.withD` and `Claims.withB` are two cases of it. -/
def State.mapDB (g h : Bool → Bool) (s : State) : State := s.setP (s.p.mapDB g h)

theorem withD_eq_mapDB (d : Bool) : Claims.withD d = State.mapDB (fun _ => d) id := rfl

theorem withB_eq_mapDB (b : Bool) : Claims.withB b = State.mapDB id (fun _ => b) := rfl

theorem resolve_mapDB (g h : Bool → Bool) (o : Operand) (s : State) :
    resolve o (s.mapDB g h) = ((resolve o s).1, (resolve o s).2.mapDB g h) := by
  cases o <;> rfl

theorem branch_mapDB {g h : Bool → Bool} {cond : State → Bool} {s : State} (hc : cond (s.mapDB g h) = cond s)
    (r : Target) : branch cond r (s.mapDB g h) = ((branch cond r s).1.mapDB g h, (branch cond r s).2) := by
  unfold branch
  rw [hc]
  split
  · cases r <;> rfl
  · rfl

/-- A meaning that neither writes D or B nor pushes the status byte does the same with D and B changed, D and B aside. -/
theorem semOf_mapDB (g h : Bool → Bool) {i : Instr} (hd : Claims.writesD i = false) (hphp : i ≠ .php) (hbrk : i ≠ .brk)
    (r : Target) (s : State) : semOf i r (s.mapDB g h) = ((semOf i r s).1.mapDB g h, (semOf i r s).2) := by
  cases i with
  | cld | sed | plp | rti => cases hd
  | php => exact absurd rfl hphp
  | brk => exact absurd rfl hbrk
  | bcc _ | bcs _ | beq _ | bne _ | bmi _ | bpl _ | bvc _ | bvs _ => 
    unfold semOf
    exact branch_mapDB (by rfl) r
  | lda _ | ldx _ | ldy _ | sta _ | stx _ | sty _ | inc _ | dec _ | adc _ | sbc _ | cmp _ | cpx _ | cpy _ | and _
  | ora _ | eor _ | bit _ | asl _ | lsr _ | rol _ | ror _ | jmp _ | jsr _ => cases r <;> rfl
  | _ => rfl

theorem enterInterrupt_mapB (h : Bool → Bool) (e : Event) (s : State) :
    (s.mapDB id h).enterInterrupt e = (s.enterInterrupt e).mapDB id h := rfl

/-- A change of B alone commutes with the meanings that write D or push the status byte as well: none reads B (R282). -/
theorem semOf_mapB (h : Bool → Bool) {i : Instr} (hb : Claims.writesB i = false) (r : Target) (s : State) :
    semOf i r (s.mapDB id h) = ((semOf i r s).1.mapDB id h, (semOf i r s).2) := by
  cases i with
  | plp | rti => cases hb
  | php | brk | cld | sed => rfl
  | _ => exact semOf_mapDB id h (by rfl) (by nofun) (by nofun) r s

/-- Where a meaning commutes with a change of D and B, so does `exec`. -/
theorem exec_mapDB {g h : Bool → Bool} {i : Instr}
    (hsem : ∀ r s, semOf i r (s.mapDB g h) = ((semOf i r s).1.mapDB g h, (semOf i r s).2)) (s : State) :
    exec i (s.mapDB g h) = Claims.mapNext (State.mapDB g h) (exec i s) := by
  rw [exec_eq, exec_eq]
  unfold runInstr
  split
  · simp only [runRow, resolve_mapDB, hsem]
    rfl
  · rfl

theorem takeEvent_mapB (h : Bool → Bool) (e : Event) (s : State) :
    (s.mapDB id h).takeEvent e = (s.takeEvent e).mapDB id h := by
  simp only [State.takeEvent]
  split
  · exact congrArg (State.addCycles · entryCycles) (enterInterrupt_mapB h e (s.setNmiPending false))
  · exact congrArg (State.addCycles · entryCycles) (enterInterrupt_mapB h e s)

/-- Settles O48: a change of B commutes with every meaning that does not write it, and with every entry. -/
theorem breakFlagIsInert : Obligations.BreakFlagIsInert := by
  refine ⟨fun i b s => ⟨fun hw => ?_, fun hw => ?_⟩, fun e b s => takeEvent_mapB (fun _ => b) e s⟩
  · cases i with
    | plp | rti => rfl
    | _ => cases hw
  · rw [withB_eq_mapDB]
    exact exec_mapDB (semOf_mapB _ hw) s

/-! ### The pushed status byte -/

theorem slot_eq_stackAddr (sp : Byte) : Claims.slot sp = stackAddr sp := (stackAddr_eq sp).symm

/-- No stack byte is a byte of an event's vector (R61, R271). -/
theorem stackAddr_ne_vector (sp : Byte) (e : Event) : stackAddr sp ≠ e.vector ∧ stackAddr sp ≠ e.vector + 1 := by
  have hlt : (stackAddr sp).toNat < 512 := by
    rw [stackAddr_eq, BitVec.toNat_ofNat]
    omega
  constructor <;> intro h <;> rw [h] at hlt <;> cases e <;> revert hlt <;> decide

/-- A store leaves every byte but the one at its address, whatever is stored. -/
theorem Bus.cell_write_other (b : Bus) {a c : Addr} (v : Byte) (h : c ≠ a) :
    Claims.cell (b.write a v).mem c = Claims.cell b.mem c := by
  rw [Claims.cell, Bus.write_mem_read, if_neg fun hc => h hc.1, Claims.cell]

/-- The word of a vector in plain memory does not depend on the byte pushed last before it is read. -/
theorem Bus.vector_answers_write (b : Bus) (sp v : Byte) {e : Event} (h : b.inWindow e.vector = false)
    (h' : b.inWindow (e.vector + 1) = false) :
    (b.write (stackAddr sp) v).answer e.vector = b.answer e.vector ∧
    ((b.write (stackAddr sp) v).read e.vector).2.answer (e.vector + 1) = b.answer (e.vector + 1) := by
  obtain ⟨hne, hne'⟩ := stackAddr_ne_vector sp e
  refine ⟨Bus.answer_write_other b _ _ v hne h, ?_⟩
  rw [Bus.answer_read _ _ _ (by exact h'), Bus.answer_write_other b _ _ v hne' h']

/-- States that agree in every field are equal. -/
theorem State.ext {s t : State} (a : s.a = t.a) (x : s.x = t.x) (y : s.y = t.y) (sp : s.sp = t.sp) (pc : s.pc = t.pc)
    (p : s.p = t.p) (nmiPending : s.nmiPending = t.nmiPending) (irqLine : s.irqLine = t.irqLine) (ic : s.ic = t.ic)
    (cycles : s.cycles = t.cycles) (bus : s.bus = t.bus) : s = t := by
  cases s
  cases t
  simp_all

/-- An entry at a boundary in full: the pushes, then the vector's two reads (R280). -/
theorem takeEvent_eq (s : State) (e : Event) : s.takeEvent e = { s with
    sp := s.sp - 1 - 1 - 1
    pc := ofBytes (((s.pushFrame e).bus.read e.vector).2.answer (e.vector + 1)) ((s.pushFrame e).bus.answer e.vector)
    p := { s.p with i := true }
    nmiPending := if e = .nmi then false else s.nmiPending
    ic := .running
    cycles := s.cycles + 7
    bus := (((s.pushFrame e).bus.read e.vector).2.read (e.vector + 1)).2 } := by
  apply State.ext <;> simp [State.takeEvent_pc, State.enterInterrupt_pc, State.takeEvent_bus, State.enterInterrupt_bus]

/-- The bus once an entry has pushed the return address (R280). -/
def State.returnPushed (s : State) (e : Event) : Bus := (s.pushWord (e.returnAddr s.pc)).bus

theorem State.pushFrame_bus_eq (s : State) (e : Event) :
    (s.pushFrame e).bus = (s.returnPushed e).write (stackAddr (s.sp - 1 - 1)) (s.p.pack e.breakBit) := rfl

/-- An entry with D changed differs in D and in the status byte it pushes (R280, R282). -/
theorem takeEvent_withD_differ (e : Event) (d : Bool) (s : State) :
    Claims.DifferInPushedStatus s (s.takeEvent e) ((Claims.withD d s).takeEvent e) d e.breakBit (Claims.slot (s.sp - 2))
      (s.bus.inWindow e.vector = false ∧ s.bus.inWindow (e.vector + 1) = false) := by
  have hsp : s.sp - 2 = s.sp - 1 - 1 := by bv_omega
  have hmem (c : Addr) (v : Byte) (hc : c ≠ stackAddr (s.sp - 1 - 1)) :=
    Bus.cell_write_other (s.returnPushed e) v hc
  unfold Claims.DifferInPushedStatus
  rw [slot_eq_stackAddr, hsp, ← Flags.pack_eq_statusByte, ← Flags.pack_eq_statusByte, takeEvent_eq, takeEvent_eq,
    State.pushFrame_bus_eq, State.pushFrame_bus_eq]
  refine ⟨_, [.read (e.vector + 1) _, .read e.vector _], [.read (e.vector + 1) _, .read e.vector _],
    rfl, rfl, fun a ha => (hmem a _ ha).trans (hmem a _ ha).symm, fun ⟨hlo, hhi⟩ => ?_⟩
  have hw (v : Byte) := Bus.vector_answers_write (s.returnPushed e) (s.sp - 1 - 1) v (e := e) hlo hhi
  obtain ⟨⟨htlo, hthi⟩, hulo, huhi⟩ := And.intro (hw (s.p.pack e.breakBit)) (hw ((Claims.withD d s).p.pack e.breakBit))
  refine ⟨congrArg₂ ofBytes (huhi.trans hthi.symm) (hulo.trans htlo.symm), ?_⟩
  exact congrArg₂ (fun hi lo => [BusEvent.read (e.vector + 1) hi, .read e.vector lo])
    (huhi.trans hthi.symm) (hulo.trans htlo.symm)

/-- PHP in full: one push, three cycles (R225). -/
theorem exec_php (s : State) : exec .php s = .next ((s.push (s.p.pack true)).addCycles 3) := rfl

/-- BRK does what the boundary's entry of the BRK event does (R247). -/
theorem exec_brk (s : State) : exec .brk s = .next (s.takeEvent .brk) := rfl

/-- PHP with D changed differs in D and in the status byte it pushes (R225). -/
theorem push_pack_withD_differ (d : Bool) (s : State) :
    Claims.DifferInPushedStatus s ((s.push (s.p.pack true)).addCycles 3)
      (((Claims.withD d s).push ((Claims.withD d s).p.pack true)).addCycles 3) d true (Claims.slot s.sp) True := by
  unfold Claims.DifferInPushedStatus
  rw [slot_eq_stackAddr, ← Flags.pack_eq_statusByte, ← Flags.pack_eq_statusByte]
  exact ⟨_, [], [], rfl, rfl,
    fun a ha => (Bus.cell_write_other s.bus _ ha).trans (Bus.cell_write_other s.bus _ ha).symm, fun _ => ⟨rfl, rfl⟩⟩

/-- Settles O47: the writers of D erase the change, PHP, BRK and the entries carry it to the pushed byte, and it commutes
with every other meaning. -/
theorem decimalFlagIsInert : Obligations.DecimalFlagIsInert := by
  refine fun i d s => ⟨fun hw => ?_, fun hw hphp hbrk => ?_,
    ⟨_, _, exec_php s, exec_php _, push_pack_withD_differ d s⟩,
    ⟨_, _, exec_brk s, exec_brk _, takeEvent_withD_differ .brk d s⟩,
    rfl, fun e => takeEvent_withD_differ e d s⟩
  · cases i with
    | cld | sed | plp | rti => rfl
    | _ => cases hw
  · rw [withD_eq_mapDB]
    exact exec_mapDB (semOf_mapDB _ _ hw hphp hbrk) s

end Sys2Proof.Machine
end

section
/-! The accesses a step makes, and memory: each access of the core keeps memory the newest bytes written, so an
instruction and an entry do; then the operand's accesses (R78) and the owner's changes (R338). -/

namespace Sys2Proof.Machine

/-! ### Memory along a sequence of accesses -/

theorem afterWrites_append (a : Addr) (old : Byte) (newer older : List BusEvent) :
    Claims.afterWrites a old (newer ++ older) = Claims.afterWrites a (Claims.afterWrites a old older) newer := by
  induction newer with
  | nil => rfl
  | cons e newer ih => cases e <;> simp only [List.cons_append, Claims.afterWrites, ih]

theorem Bus.inWindow_congr {b c : Bus} (h : b.windows = c.windows) (a : Addr) : b.inWindow a = c.inWindow a := by
  rw [Bus.inWindow, h, Bus.inWindow]

/-- In plain memory a byte is the newest one written to it. -/
theorem memoryFollows_byteAt {s t : State} {made : List BusEvent} (h : Claims.MemoryFollows s t made) {a : Addr}
    (ha : s.bus.inWindow a = false) : t.byteAt a = Claims.afterWrites a (s.byteAt a) made := by
  obtain ⟨-, -, hmem⟩ := h
  have hcell := (hmem a).1
  rwa [if_neg (by simp [ha])] at hcell

/-- Accesses that follow memory, one sequence after the other. -/
theorem memoryFollows_trans {s t u : State} {older newer : List BusEvent} (h : Claims.MemoryFollows s t older)
    (k : Claims.MemoryFollows t u newer) : Claims.MemoryFollows s u (newer ++ older) := by
  have hbyte {a : Addr} (ha : s.bus.inWindow a = false) := memoryFollows_byteAt h ha
  obtain ⟨hlog, hwin, hmem⟩ := h
  obtain ⟨klog, kwin, kmem⟩ := k
  refine ⟨by rw [klog, hlog, List.append_assoc], kwin.trans hwin, fun a => ⟨?_, fun new old v hsplit ha => ?_⟩⟩
  · rw [(kmem a).1, Bus.inWindow_congr hwin]
    split
    next hw => exact (hmem a).1.trans (if_pos hw)
    next hw => rw [hbyte (by simpa using hw), afterWrites_append]
  · obtain ⟨mid, rfl, hmid⟩ | ⟨mid, rfl, hmid⟩ := List.append_eq_append_iff.mp hsplit
    · exact (hmem a).2 mid old v hmid ha
    · cases mid with
      | nil => exact (hmem a).2 [] old v hmid.symm ha
      | cons e mid =>
        rw [List.cons_append] at hmid
        obtain ⟨rfl, rfl⟩ := List.cons.inj hmid
        rw [afterWrites_append, ← hbyte ha]
        exact (kmem a).2 new mid v rfl ((Bus.inWindow_congr hwin a).trans ha)

/-- From `s` to `t` the core makes accesses of the kinds listed, oldest first and true for a write, and no other, and
memory follows them. -/
def Makes (kinds : List Bool) (s t : State) : Prop :=
  ∃ made, Claims.MemoryFollows s t made ∧ made.reverse.map Claims.isWrite = kinds.map some

theorem Makes.trans {ks ls : List Bool} {s t u : State} (h : Makes ks s t) (k : Makes ls t u) :
    Makes (ks ++ ls) s u := by
  obtain ⟨older, hm, hk⟩ := h
  obtain ⟨newer, km, kk⟩ := k
  exact ⟨newer ++ older, memoryFollows_trans hm km, by simp [hk, kk, List.map_append]⟩

/-- A change that leaves the bus alone makes no access. -/
theorem Makes.of_bus_eq {s t : State} (h : t.bus = s.bus) : Makes [] s t := by
  refine ⟨[], ⟨by simp [h], by rw [h], fun a => ⟨?_, fun newer older v hsplit => ?_⟩⟩, rfl⟩
  · rw [h, Claims.afterWrites, ite_self]
    rfl
  · simp at hsplit

theorem memRead_makes (s : State) (a : Addr) : Makes [false] s (s.memRead a).2 := by
  refine ⟨[.read a (s.bus.answer a)], ⟨rfl, rfl, fun c => ⟨?_, fun newer older v hsplit hc => ?_⟩⟩, rfl⟩
  · rw [Claims.afterWrites, Claims.afterWrites, ite_self]
    rfl
  · cases newer with
    | nil =>
      obtain ⟨⟨rfl, rfl⟩, rfl⟩ := by simpa using hsplit
      exact Bus.answer_of_plain hc
    | cons e newer => simp at hsplit

theorem memWrite_makes (s : State) (a : Addr) (v : Byte) : Makes [true] s (s.memWrite a v) := by
  refine ⟨[.write a v], ⟨rfl, rfl, fun c => ⟨?_, fun newer older w hsplit => ?_⟩⟩, rfl⟩
  · rw [Claims.cell, State.memWrite_bus, Bus.write_mem_read, Claims.afterWrites, Claims.afterWrites]
    by_cases hc : a = c
    · subst hc
      cases s.bus.inWindow a <;> simp [State.byteAt]
    · simp [hc, Ne.symm hc, State.byteAt]
  · cases newer <;> simp at hsplit

/-! ### The accesses of the shared operations -/

theorem readPair_makes (s : State) (lo hi : Addr) : Makes [false, false] s (s.readPair lo hi).2 :=
  (memRead_makes s lo).trans (memRead_makes _ hi)

theorem push_makes (s : State) (v : Byte) : Makes [true] s (s.push v) := memWrite_makes s _ v

theorem pushWord_makes (s : State) (w : Addr) : Makes [true, true] s (s.pushWord w) :=
  (push_makes s _).trans (push_makes _ _)

theorem pull_makes (s : State) : Makes [false] s s.pull.2 := memRead_makes s _

theorem pullWord_makes (s : State) : Makes [false, false] s s.pullWord.2 := (pull_makes s).trans (pull_makes _)

theorem pullStatus_makes (s : State) : Makes [false] s s.pullStatus := pull_makes s

theorem returnFromInterrupt_makes (s : State) : Makes [false, false, false] s s.returnFromInterrupt :=
  (pullStatus_makes s).trans (pullWord_makes _)

theorem pushFrame_makes (s : State) (e : Event) : Makes [true, true, true] s (s.pushFrame e) :=
  (pushWord_makes s _).trans (push_makes _ _)

/-- An entry makes its three pushes, then the two reads of the vector (R280). -/
theorem enterInterrupt_makes (s : State) (e : Event) :
    Makes [true, true, true, false, false] s (s.enterInterrupt e) :=
  ((pushFrame_makes s e).trans (readPair_makes _ e.vector (e.vector + 1))).trans
    (.of_bus_eq (State.enterInterrupt_bus s e))

theorem takeEvent_makes (s : State) (e : Event) : Makes [true, true, true, false, false] s (s.takeEvent e) :=
  (enterInterrupt_makes s e).trans (.of_bus_eq (State.takeEvent_bus s e))

/-- The resolver makes the pointer reads of its mode (R74 to R76). -/
theorem resolve_makes (o : Operand) (s : State) :
    Makes (List.replicate (Claims.pointerReads o) false) s (resolve o s).2 := by
  cases o with
  | ind _ | izx _ | izy _ => exact readPair_makes s _ _
  | _ => exact .of_bus_eq rfl

/-- The resolver's result is an effective address. -/
def Target.isAddr : Target → Bool
  | .addr _ _ => true
  | .none | .acc | .imm _ | .rel _ => false

theorem resolve_isAddr (o : Operand) (s : State) : (resolve o s).1.isAddr = Claims.onMemory o := by
  cases o <;> rfl

theorem operandRead_makes {r : Target} {m : Bool} (hr : r.isAddr = m) (s : State) :
    Makes (if m then [false] else []) s (operandRead r s).2 := by
  subst hr
  cases r with
  | addr ea _ => exact memRead_makes s ea
  | _ => exact .of_bus_eq rfl

theorem operandWrite_makes {r : Target} {m : Bool} (hr : r.isAddr = m) (v : Byte) (s : State) :
    Makes (if m then [true] else []) s (operandWrite r v s) := by
  subst hr
  cases r with
  | addr ea _ => exact memWrite_makes s ea v
  | _ => exact .of_bus_eq rfl

/-- A read, then a write, of one operand (R78). -/
theorem operandReadWrite_makes {r : Target} {m : Bool} (hr : r.isAddr = m) (v : Byte) (s : State) :
    Makes (if m then [false, true] else []) s (operandWrite r v (operandRead r s).2) := by
  have h := (operandRead_makes hr s).trans (operandWrite_makes hr v _)
  cases m <;> exact h

theorem jumpTo_bus (r : Target) (s : State) : (jumpTo r s).bus = s.bus := by
  cases r <;> rfl

theorem branch_bus (cond : State → Bool) (r : Target) (s : State) : (branch cond r s).1.bus = s.bus := by
  unfold branch
  split
  · exact jumpTo_bus r s
  · rfl

/-! ### The accesses of every instruction -/

/-- The stores have no form that is not on memory (R124 to R126). -/
theorem onMemory_of_store_form {r : Operand}
    (h : (Instr.sta r).wf = true ∨ (Instr.stx r).wf = true ∨ (Instr.sty r).wf = true) : Claims.onMemory r = true := by
  cases r with
  | imp | acc | imm _ | rel _ => rcases h with h | h | h <;> cases h
  | _ => rfl

theorem store_makes (get : State → Byte) {r : Target} (hr : r.isAddr = true) (s : State) :
    Makes [true] s (store get r s) := operandWrite_makes hr (get s) s

/-- A meaning makes the data accesses that the rules list for its instruction (R79). -/
theorem semOf_makes {i : Instr} {r : Target} (hwf : i.wf = true) (hr : r.isAddr = Claims.onMemory i.operand)
    (s : State) : Makes (Claims.dataAccesses i) s (semOf i r s).1 := by
  cases i with
  | lda o | ldx o | ldy o | adc o | sbc o | cmp o | cpx o | cpy o | and o | ora o | eor o | bit o =>
    exact operandRead_makes hr s
  | sta o => exact store_makes _ (hr.trans (onMemory_of_store_form (.inl hwf))) s
  | stx o => exact store_makes _ (hr.trans (onMemory_of_store_form (.inr (.inl hwf)))) s
  | sty o => exact store_makes _ (hr.trans (onMemory_of_store_form (.inr (.inr hwf)))) s
  | inc o | dec o | asl o | lsr o | rol o | ror o =>
    exact operandReadWrite_makes hr _ s
  | bcc _ | bcs _ | beq _ | bne _ | bmi _ | bpl _ | bvc _ | bvs _ => exact .of_bus_eq (branch_bus _ r s)
  | jmp _ => exact .of_bus_eq (jumpTo_bus r s)
  | jsr _ => exact (pushWord_makes s _).trans (.of_bus_eq (jumpTo_bus r _))
  | rts => exact pullWord_makes s
  | pha | php => exact push_makes s _
  | pla => exact pull_makes s
  | plp => exact pullStatus_makes s
  | brk => exact enterInterrupt_makes s .brk
  | rti => exact returnFromInterrupt_makes s
  | _ => exact .of_bus_eq rfl

/-- A well-formed instruction completes; it makes the pointer reads of its mode, then its data accesses, and memory
follows them. -/
theorem exec_makes {i : Instr} (hwf : i.wf = true) (s : State) : ∃ t, exec i s = .next t ∧
    Makes (List.replicate (Claims.pointerReads i.operand) false ++ Claims.dataAccesses i) s t := by
  obtain ⟨e, he⟩ := row_of_wf hwf
  exact ⟨_, exec_of_row he s, (resolve_makes _ s).trans (semOf_makes hwf (resolve_isAddr _ s) _)⟩

/-- Settles O15, from the accesses every meaning makes. -/
theorem accessesAreExactlyThese : Obligations.AccessesAreExactlyThese := by
  intro i s hwf
  obtain ⟨t, ht, made, ⟨hlog, hwin, -⟩, hkinds⟩ := exec_makes hwf s
  exact ⟨t, made, ht, hlog, hwin, hkinds⟩

/-- Settles O59: memory follows the accesses of every instruction and of every entry. -/
theorem memoryHoldsNewestWrites : Obligations.MemoryHoldsNewestWrites := by
  refine ⟨fun i s hwf => ?_, fun e s => ?_⟩
  · obtain ⟨t, ht, made, hmade, -⟩ := exec_makes hwf s
    exact ⟨t, made, ht, hmade⟩
  · obtain ⟨made, hmade, -⟩ := takeEvent_makes s e
    exact ⟨made, hmade⟩

/-! ### The accesses of an operand, and the owner's changes -/

/-- One store in plain memory: the byte is there and every other byte stays. -/
theorem Bus.stored_single (b : Bus) (a : Addr) (v : Byte) : Claims.Stored b (b.stored a v) [(a, v)] := by
  intro hplain
  have ha : b.inWindow a = false := hplain _ (List.mem_singleton_self _)
  refine ⟨fun w hw => ?_, fun c hc => ?_⟩
  · obtain rfl := List.mem_singleton.mp hw
    rw [Claims.cell, Bus.stored_read, if_pos ⟨rfl, ha⟩]
  · have hne : a ≠ c := hc _ (List.mem_singleton_self _)
    rw [Claims.cell, Bus.stored_read, if_neg fun h => hne h.1.symm, Claims.cell]

/-- Settles O17: the accumulator and the immediate make no access, an effective address makes one. -/
theorem operandAccessByMode : Obligations.OperandAccessByMode := fun s v ea _ =>
  ⟨rfl, rfl, rfl, ⟨s.bus.answer ea, Bus.answer_of_plain, rfl⟩, ⟨_, s.bus.stored_single ea v, rfl⟩⟩

/-- LDA of an absolute address gives A the byte the bus answers there (R121). -/
theorem exec_lda_abs_a (c : Addr) (t : State) : ∃ u, exec (.lda (.abs c)) t = .next u ∧ u.a = t.bus.answer c :=
  ⟨_, rfl, rfl⟩

/-- Settles O60, from what a read answers after the owner's store and after a device's change. -/
theorem ownerChangesReachReads : Obligations.OwnerChangesReachReads := by
  refine fun s => ⟨fun a v => ⟨s.bus.stored a v, s.ownerWrite a v, rfl, rfl, fun ha => if_pos ha, fun ha => ?_,
    fun c => ?_⟩, fun what => ⟨s.deviceChange what, rfl, rfl, fun c => ?_⟩⟩
  · obtain ⟨hsame, hother⟩ := s.bus.stored_single a v (by simpa [Claims.Plain] using ha)
    exact ⟨hsame _ (List.mem_singleton_self _), fun c hc => hother c (by simpa using hc.symm)⟩
  · obtain ⟨u, hu, hua⟩ := exec_lda_abs_a c (s.ownerWrite a v)
    exact ⟨u, hu, hua.trans (Bus.answer_ownerStore s.bus a c v)⟩
  · obtain ⟨u, hu, hua⟩ := exec_lda_abs_a c (s.deviceChange what)
    exact ⟨u, hu, hua.trans (Bus.answer_deviceChange s.bus what c)⟩

end Sys2Proof.Machine
end

section
/-! The addressing modes in numbers (R64 to R77). -/

namespace Sys2Proof.Machine

/-! ### Addresses as numbers -/

theorem zext16_eq_ofNat (v : Byte) : zext16 v = BitVec.ofNat 16 v.toNat := (BitVec.ofNat_toNat 16 v).symm

theorem zext16_succ (v : Byte) : zext16 (v + 1) = BitVec.ofNat 16 ((v.toNat + 1) % 256) := by
  rw [zext16_eq_ofNat, BitVec.toNat_add]
  rfl

/-- An indexed address is the sum modulo 65536 (R72). -/
theorem add_zext16 (w : Addr) (v : Byte) : w + zext16 v = BitVec.ofNat 16 (w.toNat + v.toNat) := by
  rw [zext16_eq_ofNat, BitVec.ofNat_add, BitVec.ofNat_toNat 16 w, BitVec.setWidth_eq]

theorem hiByte_toNat (w : Addr) : (hiByte w).toNat = w.toNat / 256 := by
  simp only [hiByte, BitVec.extractLsb'_toNat, Nat.shiftRight_eq_div_pow]
  omega

theorem loByte_toNat (w : Addr) : (loByte w).toNat = w.toNat % 256 := by
  simp [loByte, BitVec.extractLsb'_toNat]

theorem pageDiffers_eq (v w : Addr) : pageDiffers v w = decide (v.toNat / 256 ≠ w.toNat / 256) := by
  rw [pageDiffers, ← hiByte_toNat, ← hiByte_toNat, bne, Bool.beq_eq_decide_eq, ← decide_not]
  simp only [BitVec.toNat_inj, ne_eq]

theorem Target.indexed_eq (base : Addr) (index : Byte) :
    Target.indexed base index = .addr (BitVec.ofNat 16 (base.toNat + index.toNat))
      (decide (base.toNat / 256 ≠ (BitVec.ofNat 16 (base.toNat + index.toNat)).toNat / 256)) := by
  rw [Target.indexed, add_zext16, pageDiffers_eq]

/-- The second pointer byte of an indirect jump lies in the pointer's page (R60). -/
theorem jmpBug_second_eq (w : Addr) : ofBytes (hiByte w) (loByte w + 1) =
    BitVec.ofNat 16 (w.toNat / 256 * 256 + (w.toNat % 256 + 1) % 256) := by
  apply BitVec.eq_of_toNat_eq
  rw [ofBytes_toNat, hiByte_toNat, BitVec.toNat_add, loByte_toNat, BitVec.toNat_ofNat]
  simp
  omega

/-- A branch's target is the next instruction's address plus the signed offset (R77). -/
theorem add_sext16_eq_branchTarget (pc : Addr) (rr : Byte) : pc + sext16 rr = Claims.branchTarget pc rr := by
  rw [Claims.branchTarget, BitVec.ofInt_add, BitVec.ofInt_natCast, BitVec.ofNat_toNat, BitVec.setWidth_eq]
  rfl

/-- A pair of reads answers possible bytes, and puts the two reads in the history (R58 to R60). -/
theorem readPair_answered (s : State) (first second : Addr) : ∃ lo hi,
    Claims.Answered s first lo ∧ Claims.Answered s second hi ∧
    s.readPair first second = (ofBytes hi lo,
      { s with bus := { s.bus with log := .read second hi :: .read first lo :: s.bus.log } }) :=
  ⟨_, _, Bus.answer_of_plain, Bus.answer_of_plain (b := (s.bus.read first).2), rfl⟩

/-- A pointer in page 0: its second byte is in page 0 as well (R59). -/
theorem read16Zp_answered (s : State) (p : Byte) :
    let first := BitVec.ofNat 16 p.toNat
    let second := BitVec.ofNat 16 ((p.toNat + 1) % 256)
    ∃ lo hi, Claims.Answered s first lo ∧ Claims.Answered s second hi ∧
      s.read16Zp p = (ofBytes hi lo,
        { s with bus := { s.bus with log := .read second hi :: .read first lo :: s.bus.log } }) := by
  rw [State.read16Zp, zext16_eq_ofNat, zext16_succ]
  exact readPair_answered s _ _

/-- Settles O16, mode by mode. -/
theorem resolverModes : Obligations.ResolverModes := by
  refine fun s n w => ⟨rfl, rfl, rfl, ?zp, ?zpx, ?zpy, rfl, ?abx, ?aby, ?ind, ?izx, ?izy, ?rel⟩
  case zp => rw [resolve, zext16_eq_ofNat]
  case zpx => rw [resolve, zext16_eq_ofNat, BitVec.toNat_add]
  case zpy => rw [resolve, zext16_eq_ofNat, BitVec.toNat_add]
  case abx => exact congrArg (·, s) (Target.indexed_eq w s.x)
  case aby => exact congrArg (·, s) (Target.indexed_eq w s.y)
  case ind =>
    obtain ⟨lo, hi, hlo, hhi, hread⟩ := readPair_answered s w (ofBytes (hiByte w) (loByte w + 1))
    rw [jmpBug_second_eq] at hhi hread
    exact ⟨lo, hi, hlo, hhi, by rw [resolve, State.read16JmpBug, jmpBug_second_eq, hread]⟩
  case izx =>
    obtain ⟨lo, hi, hlo, hhi, hread⟩ := read16Zp_answered s (n + s.x)
    rw [BitVec.toNat_add, Nat.mod_add_mod] at hhi hread
    rw [BitVec.toNat_add] at hlo
    exact ⟨lo, hi, hlo, hhi, by rw [resolve, hread]⟩
  case izy =>
    obtain ⟨lo, hi, hlo, hhi, hread⟩ := read16Zp_answered s n
    have hpage : (hi.toNat * 256 + lo.toNat) / 256 = hi.toNat := by omega
    refine ⟨lo, hi, hlo, hhi, ?_⟩
    rw [resolve, hread, Target.indexed_eq, ofBytes_toNat, hpage]
  case rel => exact congrArg (fun a => (Target.rel a, s)) (add_sext16_eq_branchTarget s.pc n)

end Sys2Proof.Machine
end

section
/-! The fetch: the instruction the bytes at PC decode to, and that it sees the store before it (R86, R103, R332). -/

namespace Sys2Proof.Machine

/-! ### Decoding looks at the bytes of the instruction alone -/

theorem decodeOpcode_size (opc b : Byte) (w : Addr) : (decodeOpcode opc b w).size = 1 + operandBytesOf opc := by
  rw [Instr.size, decodeOpcode_byteCount]

/-- Inversion of `decode`: the opcode, which decides the size, and the operand bytes its format has (R90, R91). -/
theorem decode_inv {bs rest : List Byte} {i : Instr} (h : decode bs = .instr i rest) : ∃ opc tl,
    bs = opc :: tl ∧ i.size = 1 + operandBytesOf opc ∧
    ((operandBytesOf opc = 0 ∧ tl = rest ∧ i = decodeOpcode opc 0 0) ∨
     (operandBytesOf opc = 1 ∧ ∃ b, tl = b :: rest ∧ i = decodeOpcode opc b 0) ∨
     (operandBytesOf opc = 2 ∧ ∃ ll hh, tl = ll :: hh :: rest ∧ i = decodeOpcode opc 0 (ofBytes hh ll))) := by
  cases bs with
  | nil => cases h
  | cons opc tl =>
    simp only [decode] at h
    split at h <;> cases h <;> refine ⟨opc, _, rfl, decodeOpcode_size _ _ _, ?_⟩
    next hn => exact .inl ⟨hn, rfl, rfl⟩
    next hn => exact .inr (.inl ⟨hn, _, rfl, rfl⟩)
    next hn => exact .inr (.inr ⟨hn, _, _, rfl, rfl⟩)

/-- Byte lists that agree on the bytes of the second one's instruction decode to the same instruction. -/
theorem decode_agree {bs cs rest rest' : List Byte} {i j : Instr} (hb : decode bs = .instr i rest)
    (hc : decode cs = .instr j rest') (h : ∀ k < j.size, ∀ v, bs[k]? = some v → cs[k]? = some v) : i = j := by
  obtain ⟨opc, bs, rfl, -, hb⟩ := decode_inv hb
  obtain ⟨opc', cs, rfl, hsize, hc⟩ := decode_inv hc
  obtain rfl : opc' = opc := by simpa using h 0 (by omega) opc rfl
  obtain ⟨hn, rfl, rfl⟩ | ⟨hn, b, rfl, rfl⟩ | ⟨hn, ll, hh, rfl, rfl⟩ := hb
  · obtain ⟨-, rfl⟩ := by simpa [hn] using hc
    rfl
  · obtain ⟨c, rfl, rfl⟩ := by simpa [hn] using hc
    obtain rfl : c = b := by simpa using h 1 (by omega) b rfl
    rfl
  · obtain ⟨lo, hi, rfl, rfl⟩ := by simpa [hn] using hc
    obtain rfl : lo = ll := by simpa using h 1 (by omega) ll rfl
    obtain rfl : hi = hh := by simpa using h 2 (by omega) hh rfl
    rfl

/-! ### The fetched instruction -/

/-- In plain memory the fetch gives the instruction that the bytes at PC decode to. -/
theorem fetchInstr_fst_of_decode {s : State} {bs rest : List Byte} {j : Instr} (h : decode bs = .instr j rest)
    (hplain : ∀ k < j.size, s.bus.inWindow (s.pc + BitVec.ofNat 16 k) = false)
    (hbs : ∀ k < j.size, bs[k]? = some (s.byteAt (s.pc + BitVec.ofNat 16 k))) : s.fetchInstr.1 = j := by
  obtain ⟨bytes, hdec, -, hbytes, -⟩ := fetchInstr_spec s
  refine decode_agree hdec h fun k hk v hv => ?_
  rw [hbs k hk, hbytes k v hv (hplain k hk)]

/-- An instruction has at most three bytes (R90). -/
theorem size_le_three_of_decode {bs rest : List Byte} {i : Instr} (h : decode bs = .instr i rest) : i.size ≤ 3 := by
  obtain ⟨opc, -, -, hsize, -⟩ := decode_inv h
  have := operandBytesOf_le opc
  omega

/-- The three bytes from `a` on, one by one. -/
theorem getElem?_three_bytes (f : Addr → Byte) (a : Addr) {k : Nat} (hk : k < 3) :
    [f a, f (a + 1), f (a + 2)][k]? = some (f (a + BitVec.ofNat 16 k)) := by
  match k, hk with
  | 0, _ => exact congrArg (fun c => some (f c)) (BitVec.add_zero a).symm
  | 1, _ => rfl
  | 2, _ => rfl

/-- The reads of the bytes that plain memory holds from PC on are the reads of a fetch (R55). -/
theorem readsFrom_eq_fetchReads {s : State} {bytes : List Byte}
    (h : ∀ k v, bytes[k]? = some v → v = s.byteAt (s.pc + BitVec.ofNat 16 k)) :
    Claims.readsFrom s.pc bytes = Claims.fetchReads s bytes.length := by
  unfold Claims.readsFrom Claims.fetchReads
  refine congrArg List.reverse (List.ext_getElem (by simp) fun k hk _ => ?_)
  have hk : k < bytes.length := by simpa using hk
  simp [h k _ (List.getElem?_eq_getElem hk)]

/-- At a boundary with no event a step runs what it fetches (R100). -/
theorem step_of_no_event {s : State} (h : s.pendingEvent = none) : step s = exec s.fetchInstr.1 s.fetchInstr.2 := by
  rw [step, h]

/-- Settles O7, from what a fetch does. -/
theorem stepRunsDecodedInstruction : Obligations.StepRunsDecodedInstruction := by
  refine ⟨fun s i rest hnone hdec hplain => ?_, fun s hnone => ?_⟩
  · have hsize := size_le_three_of_decode hdec
    have hi : s.fetchInstr.1 = i := fetchInstr_fst_of_decode hdec hplain fun k hk =>
      getElem?_three_bytes s.byteAt s.pc (by omega)
    obtain ⟨bytes, -, hlen, hbytes, hstate⟩ := fetchInstr_spec s
    rw [hi] at hlen hstate
    have hreads := readsFrom_eq_fetchReads fun k v hv =>
      hbytes k v hv (hplain k (hlen ▸ (List.getElem?_eq_some_iff.mp hv).1))
    rw [step_of_no_event hnone, hi, hstate, ← hlen, ← hreads, Claims.readsFrom]
  · obtain ⟨bytes, hdec, hlen, hbytes, hstate⟩ := fetchInstr_spec s
    exact ⟨s.fetchInstr.1, bytes, hdec, fetchInstr_wf s, hlen, hbytes,
      (step_of_no_event hnone).trans (congrArg (exec _) hstate)⟩

/-! ### The fetch after a store -/

/-- The opcode fetched is the byte the bus answers at PC (R100). -/
theorem fetchInstr_fst (s : State) : ∃ b w, s.fetchInstr.1 = decodeOpcode (s.bus.answer s.pc) b w := by
  unfold State.fetchInstr
  simp only
  split <;> exact ⟨_, _, rfl⟩

theorem resolve_of_dataAddr {r : Operand} {s : State} {ea : Addr} (h : Claims.dataAddr r s = some ea) :
    ∃ crossed, (resolve r s).1 = .addr ea crossed := by
  unfold Claims.dataAddr at h
  split at h <;> cases h
  next crossed hr => exact ⟨crossed, hr⟩

/-- A store of `v` at PC in plain memory: the next fetch has the opcode `v` (R86). -/
theorem store_seen_by_fetch {i : Instr} {v : Byte} {s : State} (hwf : i.wf = true)
    (hsem : ∀ r, semOf i r (resolve i.operand s).2 = (operandWrite r v (resolve i.operand s).2, 0))
    (haddr : Claims.dataAddr i.operand s = some s.pc) (hplain : s.bus.inWindow s.pc = false) :
    ∃ t b w, exec i s = .next t ∧ t.pc = s.pc ∧ t.fetchInstr.1 = decodeOpcode v b w := by
  obtain ⟨e, he⟩ := row_of_wf hwf
  obtain ⟨crossed, hr⟩ := resolve_of_dataAddr haddr
  let t := runRow e i.operand (semOf i) s
  have hpc : t.pc = s.pc := by simp [t, hsem]
  have hbus : t.bus = (resolve i.operand s).2.bus.write s.pc v := by simp [t, hsem, hr, operandWrite]
  obtain ⟨b, w, hfetch⟩ := fetchInstr_fst t
  refine ⟨t, b, w, exec_of_row he s, hpc, ?_⟩
  rw [hfetch, hpc, hbus, Bus.answer_write_same]
  exact (Bus.inWindow_congr (resolve_bus_windows i.operand s) s.pc).trans hplain

/-- Settles O57: the opcode a store put at PC is fetched, and after any instruction the newest bytes are. -/
theorem storeIsSeenByNextFetch : Obligations.StoreIsSeenByNextFetch := by
  refine ⟨fun r s iv hiv hwf haddr hplain => ?_, fun i s hwf => ?_⟩
  · obtain rfl | rfl | rfl : iv = (.sta r, s.a) ∨ iv = (.stx r, s.x) ∨ iv = (.sty r, s.y) := by simpa using hiv
    all_goals exact store_seen_by_fetch hwf (fun _ => by simp [semOf, plainSem, store]) haddr hplain
  · obtain ⟨t, ht, made, hmade, -⟩ := exec_makes hwf s
    have hbyte (a : Addr) := memoryFollows_byteAt hmade (a := a)
    obtain ⟨hlog, hwin, -⟩ := hmade
    refine ⟨t, made, ht, hlog, fun j rest hdec hplain => ?_⟩
    refine fetchInstr_fst_of_decode hdec (fun k hk => (Bus.inWindow_congr hwin _).trans (hplain k hk)) fun k hk => ?_
    have hsize := size_le_three_of_decode hdec
    rw [hbyte _ (hplain k hk)]
    exact getElem?_three_bytes (fun a => Claims.afterWrites a (s.byteAt a) made) t.pc (by omega)

end Sys2Proof.Machine
end

section
/-! The encoding (R90 to R99): the dispatch table and the opcode map agree, so the decoder and the encoder are inverse to
each other; and what a row costs (R101, R102). -/

namespace Sys2Proof.Machine

/-! ### The opcode map and the dispatch table agree -/

/-- The operand byte of a form that has one: the `b` that the opcode map builds it from (R91). -/
def operandByte : Operand → Byte
  | .imm b | .zp b | .zpx b | .zpy b | .izx b | .izy b | .rel b => b
  | .imp | .acc | .abs _ | .abx _ | .aby _ | .ind _ => 0

/-- The operand word of a form that has one: the `w` that the opcode map builds it from (R91). -/
def operandWord : Operand → Addr
  | .abs w | .abx w | .aby w | .ind w => w
  | .imp | .acc | .imm _ | .zp _ | .zpx _ | .zpy _ | .izx _ | .izy _ | .rel _ => 0

theorem decodeOpcode_of_undocumented : ∀ opc ∈ undocumentedOpcodes, decodeOpcode opc 0 0 = .undoc opc :=
  List.map_inj_left.mp rfl

theorem dispatch_undoc {opc : Byte} (h : opc ∈ undocumentedOpcodes) :
    dispatch (.undoc opc) = some { opcode := opc, base := Config.undocCycles, pen := false } := by
  simp [dispatch, row, h]

theorem wf_undoc_iff {opc : Byte} : (Instr.undoc opc).wf = true ↔ opc ∈ undocumentedOpcodes := by simp [Instr.wf]

/-- Inversion of a fallback's row (R250). -/
theorem dispatch_undoc_inv {opc : Byte} {e : Row} (h : dispatch (.undoc opc) = some e) :
    opc ∈ undocumentedOpcodes ∧ e = { opcode := opc, base := Config.undocCycles, pen := false } := by
  have hmem := wf_undoc_iff.mp (wf_of_dispatch h)
  exact ⟨hmem, Option.some.inj (h.symm.trans (dispatch_undoc hmem))⟩

/-- The opcode map has the instruction of each row of the table under the row's opcode (R93, R99). -/
theorem decodeOpcode_of_dispatch {i : Instr} {e : Row} (h : dispatch i = some e) :
    decodeOpcode e.opcode (operandByte i.operand) (operandWord i.operand) = i := by
  cases i with
  | undoc opc =>
    obtain ⟨hmem, rfl⟩ := dispatch_undoc_inv h
    exact decodeOpcode_of_undocumented opc hmem
  | lda o | ldx o | ldy o | sta o | stx o | sty o | inc o | dec o | adc o | sbc o | cmp o | cpx o | cpy o | and o
  | ora o | eor o | bit o | asl o | lsr o | rol o | ror o | jmp o => cases o <;> cases h <;> rfl
  | _ => cases h; rfl

/-- The row of the instruction that the opcode map has under an opcode has that opcode (R93, R99). -/
theorem dispatch_decodeOpcode_opcode (opc b : Byte) (w : Addr) :
    (dispatch (decodeOpcode opc b w)).map Row.opcode = some opc := by
  obtain ⟨k⟩ := opc
  fin_cases k <;> rfl

/-- The operand values do not enter the row. -/
theorem dispatch_decodeOpcode_eq (opc b : Byte) (w : Addr) :
    dispatch (decodeOpcode opc b w) = dispatch (decodeOpcode opc 0 0) := by
  unfold decodeOpcode
  split <;> rfl

/-- The bytes after the opcode are the operand byte or word the opcode map was given, low byte first (R91). -/
theorem decodeOpcode_bytes (opc b : Byte) (w : Addr) : (decodeOpcode opc b w).operand.bytes =
    if operandBytesOf opc = 0 then [] else if operandBytesOf opc = 1 then [b] else [loByte w, hiByte w] := by
  unfold operandBytesOf decodeOpcode
  split <;> rfl

/-! ### Decoding and encoding -/

theorem encode_of_dispatch {i : Instr} {e : Row} (h : dispatch i = some e) :
    encode i = e.opcode :: i.operand.bytes := by
  rw [encode, h]

/-- The decoder hands the bytes of an operand form to the opcode map, where the opcode's format has as many (R90, R91). -/
theorem decode_operand_bytes {opc : Byte} {o : Operand} (h : o.byteCount = operandBytesOf opc) (rest : List Byte) :
    decode (opc :: (o.bytes ++ rest)) = .instr (decodeOpcode opc (operandByte o) (operandWord o)) rest := by
  cases o <;> simp [decode, ← h, Operand.byteCount, Operand.bytes, operandByte, operandWord]

theorem decode_encode {i : Instr} (hwf : i.wf = true) (rest : List Byte) : decode (encode i ++ rest) = .instr i rest := by
  obtain ⟨e, he⟩ := row_of_wf hwf
  have hi := decodeOpcode_of_dispatch he
  have hcount : i.operand.byteCount = operandBytesOf e.opcode := by
    rw [← decodeOpcode_byteCount e.opcode (operandByte i.operand) (operandWord i.operand), hi]
  rw [encode_of_dispatch he, List.cons_append, decode_operand_bytes hcount, hi]

theorem encode_decodeOpcode (opc b : Byte) (w : Addr) :
    encode (decodeOpcode opc b w) = opc :: (decodeOpcode opc b w).operand.bytes := by
  obtain ⟨e, he, hopc⟩ := Option.map_eq_some_iff.mp (dispatch_decodeOpcode_opcode opc b w)
  rw [encode_of_dispatch he, hopc]

theorem wf_of_decode {bs rest : List Byte} {i : Instr} (h : decode bs = .instr i rest) : i.wf = true := by
  obtain ⟨opc, tl, -, -, ⟨-, -, rfl⟩ | ⟨-, b, -, rfl⟩ | ⟨-, ll, hh, -, rfl⟩⟩ := decode_inv h <;>
    exact decodeOpcode_wf _ _ _

theorem encode_of_decode {bs rest : List Byte} {i : Instr} (h : decode bs = .instr i rest) : encode i ++ rest = bs := by
  obtain ⟨opc, tl, rfl, -, ⟨hn, rfl, rfl⟩ | ⟨hn, b, rfl, rfl⟩ | ⟨hn, ll, hh, rfl, rfl⟩⟩ := decode_inv h <;>
    simp [encode_decodeOpcode, decodeOpcode_bytes, hn]

/-- A list decodes once the operand bytes of its opcode are there, and the bytes after them are left over. -/
theorem decode_of_length {opc : Byte} {rest : List Byte} (h : operandBytesOf opc ≤ rest.length) :
    ∃ i, decode (opc :: rest) = .instr i (rest.drop (operandBytesOf opc)) := by
  have hle := operandBytesOf_le opc
  simp only [decode]
  generalize operandBytesOf opc = n at h hle
  match n, rest with
  | 0, _ | 1, _ :: _ | 2, _ :: _ :: _ => exact ⟨_, rfl⟩
  | 1, [] | 2, [] | 2, [_] => simp at h

/-- A list that lacks operand bytes of its opcode is refused by that opcode (log entry 8). -/
theorem decode_of_short {opc : Byte} {rest : List Byte} (h : rest.length < operandBytesOf opc) :
    decode (opc :: rest) = .rejected (.truncated opc) := by
  have hle := operandBytesOf_le opc
  simp only [decode]
  generalize operandBytesOf opc = n at h hle
  match n, rest with
  | 1, [] | 2, [] | 2, [_] => rfl
  | 1, _ :: _ | 2, _ :: _ :: _ => simp at h

/-- Settles O1: the opcode of the instruction's row leads back to it. -/
theorem decodeInvertsEncode : Obligations.DecodeInvertsEncode := fun _ rest hwf => decode_encode hwf rest

/-- Settles O2: the decoder takes its instruction from the opcode map, whose rows have the opcode read. -/
theorem encodeInvertsDecode : Obligations.EncodeInvertsDecode := fun _ _ _ h => ⟨wf_of_decode h, encode_of_decode h⟩

/-- Settles O3, by the number of operand bytes the opcode asks for. -/
theorem decodeRefusesOnlyMissingBytes : Obligations.DecodeRefusesOnlyMissingBytes := fun _ _ =>
  ⟨fun h => (decode_of_length h).imp fun _ hd => ⟨hd, wf_of_decode hd⟩, decode_of_short⟩

/-- Settles O4: each word is run through the decoder. -/
theorem handWrittenWordsDecode : Obligations.HandWrittenWordsDecode :=
  ⟨rfl, rfl, rfl, rfl, rfl, rfl, rfl, rfl, rfl, rfl, rfl⟩

/-- Settles O5: the fallback's encoding is its one byte, and the decoder gives it only where it is well formed. -/
theorem undocumentedOpcodesAreOneByte : Obligations.UndocumentedOpcodesAreOneByte := by
  refine ⟨rfl, by decide, fun opc rest => ⟨fun hmem => ?_, fun h => wf_undoc_iff.mp (wf_of_decode h)⟩⟩
  have hbytes : encode (.undoc opc) = [opc] := encode_of_dispatch (dispatch_undoc hmem)
  have hdec := decode_encode (wf_undoc_iff.mpr hmem) rest
  rwa [hbytes] at hdec

/-- Settles O6: neither the row nor the number of operand bytes looks at the operand values. -/
theorem opcodeAloneDecidesRow : Obligations.OpcodeAloneDecidesRow := fun opc b c w v =>
  ⟨(dispatch_decodeOpcode_eq opc b w).trans (dispatch_decodeOpcode_eq opc c v).symm,
    (decodeOpcode_size opc b w).trans (decodeOpcode_size opc c v).symm,
    decodeOpcode_size opc b w, operandBytesOf_le opc⟩

/-! ### Every step completes -/

/-- A sequence of the driving loop's moves completes and keeps the invariant (R327, R338). -/
theorem hostCalls_total (ks : List HostCall) (s : State) :
    ∃ t, hostCalls ks s = .next t ∧ (s.inv = true → t.inv = true) := by
  induction ks generalizing s with
  | nil => exact ⟨s, rfl, id⟩
  | cons k ks ih =>
    obtain ⟨u, hu⟩ := hostCall_total k s
    obtain ⟨t, ht, hinv⟩ := ih u
    exact ⟨t, by simp only [hostCalls, hu, ht], fun hs => hinv (hostCall_keeps_inv hs hu)⟩

/-- Settles O8: a well-formed instruction has a row to run, and the fetch gives no other. -/
theorem everyStepGivesNextState : Obligations.EveryStepGivesNextState := by
  refine ⟨step_total, fun i s hwf => ?_, hostCalls_total, fun i s hwf => ⟨_, exec_of_not_wf hwf s⟩⟩
  obtain ⟨e, he⟩ := row_of_wf hwf
  exact ⟨_, exec_of_row he s⟩

/-! ### The cost of a row -/

/-- The extra of a branch in numbers: two where the target lies in another page than the next instruction (R200). -/
theorem branch_extra (cond : State → Bool) (r : Target) (s : State) :
    (branch cond r s).2 =
      if cond s = true then (if s.pc.toNat / 256 = (branch cond r s).1.pc.toNat / 256 then 1 else 2) else 0 := by
  unfold branch
  split
  · simp only [pageDiffers_eq, decide_eq_true_eq]
    split <;> simp_all
  · rfl

/-- The extra of each instruction is that of a branch taken, and none where no branch is (R100, R200). -/
theorem semOf_extra_eq (i : Instr) (r : Target) (s : State) :
    (semOf i r s).2 =
      if Claims.branchTaken i s = true then (if s.pc.toNat / 256 = (semOf i r s).1.pc.toNat / 256 then 1 else 2)
      else 0 := by
  cases i with
  | bcc _ | bcs _ | beq _ | bne _ | bmi _ | bpl _ | bvc _ | bvs _ => exact branch_extra _ r s
  | _ => rfl

/-- A branch's condition looks at the flags alone (R201 to R208). -/
theorem branchTaken_congr (i : Instr) {s t : State} (h : t.p = s.p) : Claims.branchTaken i t = Claims.branchTaken i s := by
  cases i <;> simp only [Claims.branchTaken, h]

/-- Settles O13: a meaning adds no cycles of its own, so the counter grows by the row's base, penalty and extra. -/
theorem cycleAccounting : Obligations.CycleAccounting := by
  intro i e s he
  refine ⟨_, exec_of_row he s, ?_⟩
  have hkeep := (semOf_changesOnly (wf_of_dispatch he) (resolve_fst_beq_acc i.operand s) (resolve i.operand s).2).cycles
  rw [runRow_cycles, hkeep, semOf_extra_eq, runRow_pc, resolve_cycles, resolve_pc,
    branchTaken_congr i (resolve_p i.operand s)]
  simp only [Bool.and_eq_true, Nat.add_assoc]

/-- The opcodes whose row takes the page-crossing penalty, in the order R102 lists them. -/
def penaltyOpcodes : List Byte :=
  [0x7D, 0x79, 0x71, 0x3D, 0x39, 0x31, 0xDD, 0xD9, 0xD1, 0x5D, 0x59, 0x51,
    0xBD, 0xB9, 0xB1, 0x1D, 0x19, 0x11, 0xFD, 0xF9, 0xF1, 0xBE, 0xBC]

theorem pen_of_mem_penaltyOpcodes :
    ∀ opc ∈ penaltyOpcodes, (dispatch (decodeOpcode opc 0 0)).map Row.pen = some true :=
  List.map_inj_left.mp rfl

theorem pen_iff_of_dispatch {i : Instr} {e : Row} (h : dispatch i = some e) :
    e.pen = true ↔ e.opcode ∈ penaltyOpcodes := by
  cases i with
  | undoc opc =>
    obtain ⟨hmem, rfl⟩ := dispatch_undoc_inv h
    refine ⟨nofun, fun hpen => ?_⟩
    have hrow := pen_of_mem_penaltyOpcodes opc hpen
    rw [decodeOpcode_of_undocumented opc hmem, dispatch_undoc hmem] at hrow
    exact Option.some.inj hrow
  | lda o | ldx o | ldy o | sta o | stx o | sty o | inc o | dec o | adc o | sbc o | cmp o | cpx o | cpy o | and o
  | ora o | eor o | bit o | asl o | lsr o | rol o | ror o | jmp o => cases o <;> cases h <;> decide
  | _ => cases h; decide

/-- Settles O14, row by row. -/
theorem pagePenaltySet : Obligations.PagePenaltySet := by
  refine ⟨fun _ _ h => pen_iff_of_dispatch h, fun w n => ⟨rfl, rfl, rfl, fun i hi => ?_⟩⟩
  obtain rfl | rfl | rfl | rfl | rfl | rfl := by simpa using hi
  all_goals exact ⟨_, rfl⟩

end Sys2Proof.Machine
end

section
/-! Loads and stores (R120 to R126): a meaning without extra cycles in full, what reading an operand form leaves of the
state, and from these the next state of every load and of every store. -/

namespace Sys2Proof.Machine

/-! ### A meaning without extra cycles, run on its operand form -/

/-- A well-formed instruction whose meaning adds no extra runs it on its resolved form and pays `Claims.formCost` (R100,
R101). -/
theorem exec_of_plainSem {i : Instr} {f : Target → State → State} (hwf : i.wf = true) (hsem : semOf i = plainSem f)
    (s : State) : exec i s =
      .next ((f (resolve i.operand s).1 (resolve i.operand s).2).addCycles (Claims.formCost i s)) := by
  obtain ⟨e, he⟩ := row_of_wf hwf
  rw [exec_of_row he, hsem, Claims.formCost, he]
  rfl

/-- The resolver changes the history alone (R64 to R77). -/
theorem resolve_snd (o : Operand) (s : State) :
    (resolve o s).2 = s.setBus { s.bus with log := (resolve o s).2.bus.log } := by
  cases o <;> rfl

/-- `s` after its operand form `r` was read: the history alone has changed (R55, R78). -/
def afterRead (r : Operand) (s : State) : State := s.setBus { s.bus with log := Claims.logAfterRead r s }

theorem operandRead_resolve (r : Operand) (s : State) :
    operandRead (resolve r s).1 (resolve r s).2 = (Claims.operandValue r s, afterRead r s) := by
  cases r <;> rfl

/-- Bit 7 of a byte is set from 128 on, so `setZN` is the numeric rule (R36). -/
theorem Flags.setZN_eq_znFrom (p : Flags) (v : Byte) : p.setZN v = Claims.znFrom p v := by
  have hz : (v == 0) = decide (v.toNat = 0) := by
    rw [Bool.beq_eq_decide_eq]
    exact decide_eq_decide.mpr BitVec.toNat_inj.symm
  have hn : v.getLsbD 7 = decide (128 ≤ v.toNat) := BitVec.msb_eq_decide v
  rw [Flags.setZN, Claims.znFrom, hz, hn]

/-! ### Loads -/

/-- A load writes the operand by `set` and sets Z and N from it (R120). -/
theorem exec_of_load {i : Instr} {set : State → Byte → State} (hwf : i.wf = true)
    (hsem : semOf i = plainSem (load set)) (s : State) :
    let v := Claims.operandValue i.operand s
    exec i s =
      .next (((set (afterRead i.operand s) v).setP (Claims.znFrom s.p v)).addCycles (Claims.formCost i s)) := by
  rw [exec_of_plainSem hwf hsem, load, operandRead_resolve, Flags.setZN_eq_znFrom]
  rfl

/-- Settles O18: the rows stand in the dispatch table, and each load is `exec_of_load` at its register. -/
theorem loadsTakeOperand : Obligations.LoadsTakeOperand :=
  ⟨fun _ _ => by and_intros <;> rfl, fun _ _ => by and_intros <;> rfl, fun _ s =>
    ⟨fun hwf => exec_of_load hwf rfl s, fun hwf => exec_of_load hwf rfl s, fun hwf => exec_of_load hwf rfl s⟩⟩

/-! ### Stores -/

theorem dataAddr_of_onMemory {r : Operand} (h : Claims.onMemory r = true) (s : State) :
    ∃ ea, Claims.dataAddr r s = some ea := by
  cases r with
  | imp | acc | imm _ | rel _ => cases h
  | _ => exact ⟨_, rfl⟩

/-- A write to the resolved form: one store through the bus, and the pointer reads before it in the history (R78). -/
theorem operandWrite_resolve {r : Operand} {s : State} {ea : Addr} (h : Claims.dataAddr r s = some ea) (v : Byte) :
    operandWrite (resolve r s).1 v (resolve r s).2 =
      s.setBus { s.bus with mem := s.bus.stored ea v, log := .write ea v :: (resolve r s).2.bus.log } := by
  obtain ⟨crossed, hr⟩ := resolve_of_dataAddr h
  rw [hr, resolve_snd]
  rfl

/-- A store of the register `get` writes its value at the effective address and changes nothing else; plain memory takes
the byte (R120). -/
theorem exec_of_store {i : Instr} {get : State → Byte} {s : State} (hwf : i.wf = true)
    (hsem : semOf i = plainSem (store get)) (hget : get (resolve i.operand s).2 = get s)
    (hmem : Claims.onMemory i.operand = true) :
    ∃ ea mem, Claims.dataAddr i.operand s = some ea ∧ Claims.Stored s.bus mem [(ea, get s)] ∧
      exec i s = .next { s with
        cycles := s.cycles + Claims.formCost i s,
        bus := { s.bus with mem := mem, log := .write ea (get s) :: (resolve i.operand s).2.bus.log } } := by
  obtain ⟨ea, hea⟩ := dataAddr_of_onMemory hmem s
  refine ⟨ea, _, hea, s.bus.stored_single ea (get s), ?_⟩
  rw [exec_of_plainSem hwf hsem, store, hget, operandWrite_resolve hea]
  rfl

/-- Settles O19: the rows stand in the dispatch table, and each store is `exec_of_store` at its register. -/
theorem storesWriteOneByte : Obligations.StoresWriteOneByte := by
  refine ⟨fun _ _ => by and_intros <;> rfl, fun r s iv hiv hwf => ?_⟩
  obtain rfl | rfl | rfl : iv = (.sta r, s.a) ∨ iv = (.stx r, s.x) ∨ iv = (.sty r, s.y) := by simpa using hiv
  · exact exec_of_store hwf rfl (resolve_a r s) (onMemory_of_store_form (.inl hwf))
  · exact exec_of_store hwf rfl (resolve_x r s) (onMemory_of_store_form (.inr (.inl hwf)))
  · exact exec_of_store hwf rfl (resolve_y r s) (onMemory_of_store_form (.inr (.inr hwf)))

end Sys2Proof.Machine
end

section
/-! Register transfers (R140 to R146): an instruction without an operand and without extra cycles in full, and from it the
next state of every transfer. -/

namespace Sys2Proof.Machine

/-- An instruction without an operand whose meaning adds no extra applies it to the state and pays the base of its row
(R100, R101). -/
theorem exec_of_implied {i : Instr} {f : State → State} {opc : Byte} {base : Nat}
    (hrow : Claims.HasRow i opc base false) (himp : i.operand = .imp) (hsem : semOf i = plainSem fun _ => f)
    (s : State) : exec i s = .next ((f s).addCycles base) := by
  have hcost : Claims.formCost i s = base := by
    rw [Claims.formCost, hrow]
    rfl
  rw [exec_of_plainSem (wf_of_dispatch hrow) hsem, hcost, himp]
  rfl

/-- A transfer writes by `set` the register `get` reads, and sets Z and N from it (R140). -/
theorem exec_of_transfer {i : Instr} {set : State → Byte → State} {get : State → Byte} {opc : Byte} {base : Nat}
    (hrow : Claims.HasRow i opc base false) (himp : i.operand = .imp)
    (hsem : semOf i = plainSem fun _ => transfer set get) (s : State) :
    exec i s = .next (((set s (get s)).setP (Claims.znFrom s.p (get s))).addCycles base) := by
  rw [exec_of_implied hrow himp hsem, transfer, Flags.setZN_eq_znFrom]

/-- Settles O20: the rows stand in the dispatch table, TXS is `exec_of_implied`, and each other transfer is
`exec_of_transfer` at its two registers. -/
theorem transfersCopyRegister : Obligations.TransfersCopyRegister := by
  intro s
  have htax : Claims.HasRow .tax 0xAA 2 false := rfl
  have htay : Claims.HasRow .tay 0xA8 2 false := rfl
  have htxa : Claims.HasRow .txa 0x8A 2 false := rfl
  have htya : Claims.HasRow .tya 0x98 2 false := rfl
  have htsx : Claims.HasRow .tsx 0xBA 2 false := rfl
  have htxs : Claims.HasRow .txs 0x9A 2 false := rfl
  exact ⟨htax, htay, htxa, htya, htsx, htxs, exec_of_transfer htax rfl rfl s, exec_of_transfer htay rfl rfl s,
    exec_of_transfer htxa rfl rfl s, exec_of_transfer htya rfl rfl s, exec_of_transfer htsx rfl rfl s,
    exec_of_implied htxs rfl rfl s⟩

end Sys2Proof.Machine
end

section
/-! Increment and decrement (R150 to R156): the read-modify-write of a byte of memory in full, a register's increment or
decrement in full, and from the latter what several INX in a row do. -/

namespace Sys2Proof.Machine

theorem inc8_eq_ofNat (v : Byte) : inc8 v = BitVec.ofNat 8 (v.toNat + 1) := by
  unfold inc8
  bv_omega

/-- Minus one modulo 256 is plus 255. -/
theorem dec8_eq_ofNat (v : Byte) : dec8 v = BitVec.ofNat 8 (v.toNat + 255) := by
  unfold dec8
  bv_omega

/-! ### Memory -/

/-- INC and DEC have no form that is not on memory (R151, R154). -/
theorem onMemory_of_modify_form {r : Operand} (h : r.isModifyForm = true) : Claims.onMemory r = true := by
  cases r with
  | imp | acc | imm _ | rel _ => cases h
  | _ => rfl

/-- A write to the resolved form after it was read: one store through the bus, and in the history the read of the same
address before it (R78, R150). -/
theorem operandWrite_afterRead {r : Operand} {s : State} {ea : Addr} (h : Claims.dataAddr r s = some ea) (v : Byte) :
    operandWrite (resolve r s).1 v (afterRead r s) = s.setBus { s.bus with
      mem := s.bus.stored ea v,
      log := .write ea v :: .read ea (Claims.operandValue r s) :: (resolve r s).2.bus.log } := by
  obtain ⟨crossed, hr⟩ := resolve_of_dataAddr h
  rw [hr, afterRead, Claims.logAfterRead, h]
  rfl

/-- The forms of INC and DEC read no pointer, so the resolver leaves the history (R64, R79). -/
theorem resolve_log_of_modify_form {r : Operand} (h : r.isModifyForm = true) (s : State) :
    (resolve r s).2.bus.log = s.bus.log := by
  cases r with
  | ind _ | izx _ | izy _ => cases h
  | _ => rfl

/-- A read-modify-write reads and writes its effective address once each, sets Z and N from the byte written, and changes
nothing else; plain memory takes the byte (R150). -/
theorem exec_of_modifyByte {i : Instr} {f : Byte → Byte} (hwf : i.wf = true) (hsem : semOf i = plainSem (modifyByte f))
    (hform : i.operand.isModifyForm = true) (s : State) :
    let u := Claims.operandValue i.operand s
    ∃ ea mem, Claims.dataAddr i.operand s = some ea ∧ Claims.Stored s.bus mem [(ea, f u)] ∧
      exec i s = .next { s with
        p := Claims.znFrom s.p (f u),
        cycles := s.cycles + Claims.formCost i s,
        bus := { s.bus with mem := mem, log := .write ea (f u) :: .read ea u :: s.bus.log } } := by
  intro u
  obtain ⟨ea, hea⟩ := dataAddr_of_onMemory (onMemory_of_modify_form hform) s
  refine ⟨ea, _, hea, s.bus.stored_single ea (f u), ?_⟩
  rw [exec_of_plainSem hwf hsem, modifyByte, operandRead_resolve, operandWrite_afterRead hea,
    resolve_log_of_modify_form hform, Flags.setZN_eq_znFrom]
  rfl

/-- Settles O21: the rows stand in the dispatch table, and INC and DEC are `exec_of_modifyByte` at plus and minus one. -/
theorem memoryIncrementDecrement : Obligations.MemoryIncrementDecrement := by
  refine ⟨fun _ _ => by and_intros <;> rfl, fun _ _ => by and_intros <;> rfl, fun r s iv hiv hwf => ?_⟩
  rw [← inc8_eq_ofNat, ← dec8_eq_ofNat] at hiv
  obtain rfl | rfl : iv = (.inc r, inc8 _) ∨ iv = (.dec r, dec8 _) := by simpa using hiv
  · exact exec_of_modifyByte hwf rfl hwf s
  · exact exec_of_modifyByte hwf rfl hwf s

/-! ### Registers -/

/-- A register's increment or decrement writes by `set` `f` of what `get` reads, and sets Z and N from it (R150). -/
theorem exec_of_bump {i : Instr} {set : State → Byte → State} {get : State → Byte} {f : Byte → Byte} {opc : Byte}
    {base : Nat} (hrow : Claims.HasRow i opc base false) (himp : i.operand = .imp)
    (hsem : semOf i = plainSem fun _ => bump set get f) (s : State) :
    exec i s = .next (((set s (f (get s))).setP (Claims.znFrom s.p (f (get s)))).addCycles base) := by
  rw [exec_of_implied hrow himp hsem, bump, Flags.setZN_eq_znFrom]

/-- Settles O22: the rows stand in the dispatch table, and each instruction is `exec_of_bump` at its register. -/
theorem registerIncrementDecrement : Obligations.RegisterIncrementDecrement := by
  intro s
  have hinx : Claims.HasRow .inx 0xE8 2 false := rfl
  have hiny : Claims.HasRow .iny 0xC8 2 false := rfl
  have hdex : Claims.HasRow .dex 0xCA 2 false := rfl
  have hdey : Claims.HasRow .dey 0x88 2 false := rfl
  simp only [← inc8_eq_ofNat, ← dec8_eq_ofNat]
  exact ⟨hinx, hiny, hdex, hdey, exec_of_bump hinx rfl rfl s, exec_of_bump hiny rfl rfl s, exec_of_bump hdex rfl rfl s,
    exec_of_bump hdey rfl rfl s⟩

/-! ### Several INX in a row -/

/-- Lists of meanings run one after the other, where the first one completes. -/
theorem execAll_append {is : List Instr} {s t : State} (h : Claims.execAll is s = .next t) (js : List Instr) :
    Claims.execAll (is ++ js) s = Claims.execAll js t := by
  induction is generalizing s with
  | nil =>
    cases h
    rfl
  | cons i is ih =>
    simp only [List.cons_append, Claims.execAll] at h ⊢
    split at h
    · exact ih h
    · cases h
    · cases h

/-- A list of meanings that completes, then one meaning more. -/
theorem execAll_concat {is : List Instr} {i : Instr} {s t u : State} (h : Claims.execAll is s = .next t)
    (hi : exec i t = .next u) : Claims.execAll (is ++ [i]) s = .next u := by
  rw [execAll_append h, Claims.execAll, hi]
  rfl

/-- Settles O23, by induction on the number of INX: the last one alone decides Z (R152). -/
theorem repeatedIncrementWraps : Obligations.RepeatedIncrementWraps := by
  intro k s
  induction k with
  | zero => exact ⟨s, rfl, by simp, rfl, nofun, rfl, rfl, rfl, rfl, rfl⟩
  | succ k ih =>
    obtain ⟨t, ht, hx, hcycles, -, ha, hy, hsp, hpc, hbus⟩ := ih
    obtain ⟨-, -, -, -, hinx, -⟩ := registerIncrementDecrement t
    have hrun := execAll_concat ht hinx
    rw [← List.replicate_succ'] at hrun
    have hsum : BitVec.ofNat 8 (t.x.toNat + 1) = BitVec.ofNat 8 (s.x.toNat + (k + 1)) := by
      rw [hx]
      bv_omega
    refine ⟨_, hrun, hsum, ?_, fun _ => ?_, ha, hy, hsp, hpc, hbus⟩
    · show t.cycles + 2 = s.cycles + 2 * (k + 1)
      omega
    · show decide ((BitVec.ofNat 8 (t.x.toNat + 1)).toNat = 0) = decide ((s.x.toNat + (k + 1)) % 256 = 0)
      rw [hsum, BitVec.toNat_ofNat]

end Sys2Proof.Machine
end

section
/-! Arithmetic and compare (R160 to R167): the nine-bit sum as a number, its carry and its signed overflow; from them the
next state of an addition with carry, of which SBC is the one of the complement; then the compares, and what ADC and SBC
in a row make of A. -/

namespace Sys2Proof.Machine

/-! ### The sum and its flags as numbers -/

/-- The sign of a byte, as a number (R7). -/
theorem getLsbD_seven (v : Byte) : v.getLsbD 7 = decide (128 ≤ v.toNat) := BitVec.msb_eq_decide v

/-- Two bytes and a carry fit into nine bits, so the wide sum does not wrap (R161). -/
theorem addWide_toNat (a m : Byte) (c : Bool) : (addWide a m c).toNat = a.toNat + m.toNat + c.toNat := by
  have hc := Bool.toNat_lt c
  have hcarry : (carryIn c).toNat = c.toNat := by cases c <;> rfl
  rw [addWide, BitVec.toNat_add, BitVec.toNat_add, hcarry, BitVec.toNat_setWidth, BitVec.toNat_setWidth]
  omega

theorem addResult_eq_ofNat (a m : Byte) (c : Bool) :
    addResult a m c = BitVec.ofNat 8 (a.toNat + m.toNat + c.toNat) := by
  rw [addResult, ← BitVec.ofNat_toNat, addWide_toNat]

theorem addWide_bit8 (a m : Byte) (c : Bool) :
    (addWide a m c).getLsbD 8 = decide (255 < a.toNat + m.toNat + c.toNat) := by
  have hbit : (addWide a m c).getLsbD 8 = decide (256 ≤ (addWide a m c).toNat) := BitVec.msb_eq_decide (addWide a m c)
  rw [hbit, addWide_toNat]
  rfl

/-- The sign rule: both operands' signs differ from the result's exactly where the signed sum does not fit (R161). -/
theorem addResult_overflow (a m : Byte) (c : Bool) :
    ((a ^^^ addResult a m c) &&& (m ^^^ addResult a m c)).getLsbD 7 =
      decide (a.toInt + m.toInt + c.toNat < -128 ∨ 127 < a.toInt + m.toInt + (c.toNat : Int)) := by
  have hc := Bool.toNat_lt c
  rw [BitVec.getLsbD_and, BitVec.getLsbD_xor, BitVec.getLsbD_xor, getLsbD_seven, getLsbD_seven, getLsbD_seven,
    addResult_eq_ofNat, BitVec.toNat_ofNat, BitVec.toInt_eq_toNat_cond, BitVec.toInt_eq_toNat_cond, Bool.eq_iff_iff]
  simp only [Bool.and_eq_true, Bool.xor_iff_ne, ne_eq, decide_eq_decide, decide_eq_true_eq]
  omega

/-- The flags of an addition with carry, all four from the sum as a number (R161). -/
theorem Flags.ofAdd_eq (p : Flags) (a m : Byte) :
    let sum := a.toNat + m.toNat + p.c.toNat
    let signed : Int := a.toInt + m.toInt + p.c.toNat
    p.ofAdd a m = Claims.znFrom
      { p with c := decide (255 < sum), v := decide (signed < -128 ∨ 127 < signed) } (BitVec.ofNat 8 sum) := by
  intro sum signed
  rw [← Flags.setZN_eq_znFrom, ← addResult_eq_ofNat, ← addWide_bit8, ← addResult_overflow]
  rfl

/-! ### ADC and SBC -/

/-- An addition with carry of `f` of the operand: A takes the sum modulo 256, and the flags are the sum's (R161). -/
theorem exec_of_addToA {i : Instr} {f : Byte → Byte} (hwf : i.wf = true) (hsem : semOf i = plainSem (addToA f))
    (s : State) :
    let m := f (Claims.operandValue i.operand s)
    let sum := s.a.toNat + m.toNat + s.p.c.toNat
    let signed : Int := s.a.toInt + m.toInt + s.p.c.toNat
    let res := BitVec.ofNat 8 sum
    Claims.ReadsInto i s { s with
      a := res,
      p := Claims.znFrom { s.p with
        c := decide (255 < sum), v := decide (signed < -128 ∨ 127 < signed) } res } := by
  rw [Claims.ReadsInto, exec_of_plainSem hwf hsem, addToA, operandRead_resolve, addResult_eq_ofNat, Flags.ofAdd_eq]
  rfl

/-- Settles O24: the rows stand in the dispatch table, and ADC is `exec_of_addToA` of the operand itself. -/
theorem adcAddsWithCarry : Obligations.AdcAddsWithCarry :=
  ⟨fun _ _ => by and_intros <;> rfl, fun _ s hwf => exec_of_addToA hwf rfl s⟩

/-- The complement of m is 255 - m, so adding it is subtracting m and the borrow 1 - c, and adding 256 (R162). -/
theorem add_not_result (a m : Byte) (c : Bool) :
    BitVec.ofNat 8 (a.toNat + (~~~m).toNat + c.toNat) =
      BitVec.ofInt 8 ((a.toNat : Int) - m.toNat - (1 - c.toNat : Nat)) := by
  have hc := Bool.toNat_lt c
  have hnot : (~~~m).toNat = 255 - m.toNat := BitVec.toNat_not
  apply BitVec.eq_of_toNat_eq
  rw [BitVec.toNat_ofNat, BitVec.toNat_ofInt, hnot]
  omega

/-- The sum with the complement carries exactly where the difference borrows nothing (R162). -/
theorem add_not_carry (a m : Byte) (c : Bool) :
    255 < a.toNat + (~~~m).toNat + c.toNat ↔ m.toNat + (1 - c.toNat) ≤ a.toNat := by
  have hc := Bool.toNat_lt c
  have hnot : (~~~m).toNat = 255 - m.toNat := BitVec.toNat_not
  omega

/-- The complement of m is -1 - m signed, so the signed sum is the signed difference (R162). -/
theorem add_not_signed (a m : Byte) (c : Bool) :
    a.toInt + (~~~m).toInt + c.toNat = a.toInt - m.toInt - (1 - c.toNat : Nat) := by
  have hc := Bool.toNat_lt c
  have hnot : (~~~m).toNat = 255 - m.toNat := BitVec.toNat_not
  have hsigned : (~~~m).toInt = -1 - m.toInt := by
    rw [BitVec.toInt_eq_toNat_cond, BitVec.toInt_eq_toNat_cond, hnot]
    omega
  omega

/-- Settles O25: the rows stand in the dispatch table, and SBC is `exec_of_addToA` of the complement, whose sum, carry and
signed sum are those of the difference. -/
theorem sbcSubtractsWithBorrow : Obligations.SbcSubtractsWithBorrow := by
  refine ⟨fun _ _ => by and_intros <;> rfl, fun r s hwf => ?_⟩
  have hsbc := exec_of_addToA (f := fun m => ~~~m) hwf rfl s
  simp only [add_not_result, add_not_carry, add_not_signed] at hsbc
  exact hsbc

/-! ### Compares -/

/-- The flags of a compare as numbers (R164). -/
theorem Flags.ofCompare_eq (p : Flags) (reg m : Byte) : p.ofCompare reg m = { p with
    c := decide (m.toNat ≤ reg.toNat), z := decide (reg = m),
    n := decide (128 ≤ (reg.toNat + 256 - m.toNat) % 256) } := by
  have hz : (reg == m) = decide (reg = m) := Bool.beq_eq_decide_eq reg m
  have hdiff : (reg - m).toNat = (reg.toNat + 256 - m.toNat) % 256 := by
    bv_omega
  rw [Flags.ofCompare, hz, getLsbD_seven, hdiff]
  rfl

/-- A compare of the register `get` reads the operand and writes C, Z and N alone (R164). -/
theorem exec_of_compareWith {i : Instr} {get : State → Byte} {s : State} (hwf : i.wf = true)
    (hsem : semOf i = plainSem (compareWith get)) (hget : get (afterRead i.operand s) = get s) :
    let m := Claims.operandValue i.operand s
    Claims.ReadsInto i s { s with
      p := { s.p with
        c := decide (m.toNat ≤ (get s).toNat), z := decide (get s = m),
        n := decide (128 ≤ ((get s).toNat + 256 - m.toNat) % 256) } } := by
  rw [Claims.ReadsInto, exec_of_plainSem hwf hsem, compareWith, operandRead_resolve, hget, Flags.ofCompare_eq]
  rfl

/-- Settles O26: the rows stand in the dispatch table, and each compare is `exec_of_compareWith` at its register. -/
theorem comparesSetFlags : Obligations.ComparesSetFlags := by
  refine ⟨fun _ _ => by and_intros <;> rfl, fun _ _ => by and_intros <;> rfl, fun r s => ?_⟩
  intro m iv hiv hwf
  obtain rfl | rfl | rfl : iv = (.cmp r, s.a) ∨ iv = (.cpx r, s.x) ∨ iv = (.cpy r, s.y) := by simpa using hiv
  all_goals exact exec_of_compareWith hwf rfl rfl

/-! ### ADC, then SBC -/

/-- The instruction that sets the carry flag to `c`: SEC or CLC (R240, R241). -/
def setCarry (c : Bool) : Instr := if c then .sec else .clc

theorem exec_setCarry (c : Bool) (s : State) :
    exec (setCarry c) s = .next ((s.setP { s.p with c := c }).addCycles 2) := by
  cases c <;> rfl

theorem exec_adc_imm_a (m : Byte) (s : State) : ∃ t,
    exec (.adc (.imm m)) s = .next t ∧ t.a = s.a + m + BitVec.ofNat 8 s.p.c.toNat := by
  refine ⟨_, adcAddsWithCarry.2 (.imm m) s rfl, ?_⟩
  show BitVec.ofNat 8 (s.a.toNat + m.toNat + s.p.c.toNat) = s.a + m + BitVec.ofNat 8 s.p.c.toNat
  rw [BitVec.ofNat_add, BitVec.ofNat_add, BitVec.ofNat_toNat, BitVec.ofNat_toNat, BitVec.setWidth_eq,
    BitVec.setWidth_eq]

theorem exec_sbc_imm_a (m : Byte) (s : State) : ∃ t,
    exec (.sbc (.imm m)) s = .next t ∧ t.a = s.a - m - BitVec.ofNat 8 (1 - s.p.c.toNat) := by
  refine ⟨_, sbcSubtractsWithBorrow.2 (.imm m) s rfl, ?_⟩
  show BitVec.ofInt 8 ((s.a.toNat : Int) - m.toNat - (1 - s.p.c.toNat : Nat)) = _
  bv_omega

/-- ADC and then SBC of one byte, with carry `c` before the first and `d` before the second: A comes back plus `c` and
less the borrow `1 - d`, whatever carry ADC leaves (R163). -/
theorem adc_then_sbc_a (c d : Bool) (m : Byte) (s : State) : ∃ t,
    Claims.execAll [setCarry c, .adc (.imm m), setCarry d, .sbc (.imm m)] s = .next t ∧
      t.a = s.a + BitVec.ofNat 8 c.toNat - BitVec.ofNat 8 (1 - d.toNat) := by
  obtain ⟨t, hadc, hta⟩ := exec_adc_imm_a m ((s.setP { s.p with c := c }).addCycles 2)
  obtain ⟨u, hsbc, hua⟩ := exec_sbc_imm_a m ((t.setP { t.p with c := d }).addCycles 2)
  refine ⟨u, by simp only [Claims.execAll, exec_setCarry, hadc, hsbc], ?_⟩
  calc u.a = t.a - m - BitVec.ofNat 8 (1 - d.toNat) := hua
    _ = s.a + m + BitVec.ofNat 8 c.toNat - m - BitVec.ofNat 8 (1 - d.toNat) := by
      rw [hta]
      rfl
    _ = s.a + BitVec.ofNat 8 c.toNat - BitVec.ofNat 8 (1 - d.toNat) := by
      rw [add_right_comm, add_sub_cancel_right]

/-- Settles O27: the three clauses are `adc_then_sbc_a` at the carries they set. -/
theorem adcSbcRoundTrip : Obligations.AdcSbcRoundTrip := fun m s =>
  ⟨by simpa [setCarry] using adc_then_sbc_a false true m s, by simpa [setCarry] using adc_then_sbc_a false false m s,
    by simpa [setCarry] using adc_then_sbc_a true true m s⟩

end Sys2Proof.Machine
end

section
/-! Logic (R180 to R184): the next state of a bitwise operation into A and of BIT, whose overflow flag is bit 6 of the
operand as a number. -/

namespace Sys2Proof.Machine

/-! ### AND, ORA, EOR -/

/-- A bitwise operation `f` of A and the operand: A takes the result, Z and N are set from it, C and V stay (R180). -/
theorem exec_of_logicToA {i : Instr} {f : Byte → Byte → Byte} (hwf : i.wf = true)
    (hsem : semOf i = plainSem (logicToA f)) (s : State) :
    let res := f s.a (Claims.operandValue i.operand s)
    Claims.ReadsInto i s { s with a := res, p := Claims.znFrom s.p res } := by
  rw [Claims.ReadsInto, exec_of_plainSem hwf hsem, logicToA, operandRead_resolve, Flags.setZN_eq_znFrom]
  rfl

/-- Settles O28: the rows stand in the dispatch table, and each instruction is `exec_of_logicToA` at its operation. -/
theorem logicWritesA : Obligations.LogicWritesA := by
  refine ⟨fun _ _ => by and_intros <;> rfl, fun _ _ => by and_intros <;> rfl, fun _ _ => by and_intros <;> rfl,
    fun r s => ?_⟩
  intro m iv hiv hwf
  obtain rfl | rfl | rfl : iv = (.and r, s.a &&& m) ∨ iv = (.ora r, s.a ||| m) ∨ iv = (.eor r, s.a ^^^ m) := by
    simpa using hiv
  all_goals exact exec_of_logicToA hwf rfl s

/-! ### BIT -/

/-- Bit 6 of a byte is the top bit of its low seven, so it is set from 64 on modulo 128. -/
theorem getLsbD_six (v : Byte) : v.getLsbD 6 = decide (64 ≤ v.toNat % 128) := by
  have hmsb : (v.setWidth 7).msb = decide (64 ≤ (v.setWidth 7).toNat) := BitVec.msb_eq_decide (v.setWidth 7)
  rw [BitVec.msb_setWidth, BitVec.toNat_setWidth] at hmsb
  exact hmsb

/-- The flags of BIT as numbers (R184). -/
theorem Flags.ofBit_eq (p : Flags) (a m : Byte) : p.ofBit a m = { p with
    z := decide (a &&& m = 0), v := decide (64 ≤ m.toNat % 128), n := decide (128 ≤ m.toNat) } := by
  rw [Flags.ofBit, Bool.beq_eq_decide_eq, getLsbD_six, getLsbD_seven]

/-- BIT reads the operand and writes Z, V and N alone (R184). -/
theorem exec_of_bitTest {i : Instr} (hwf : i.wf = true) (hsem : semOf i = plainSem bitTest) (s : State) :
    let m := Claims.operandValue i.operand s
    Claims.ReadsInto i s { s with
      p := { s.p with
        z := decide (s.a &&& m = 0), v := decide (64 ≤ m.toNat % 128), n := decide (128 ≤ m.toNat) } } := by
  rw [Claims.ReadsInto, exec_of_plainSem hwf hsem, bitTest, operandRead_resolve, Flags.ofBit_eq]
  rfl

/-- Settles O29: the rows stand in the dispatch table, and the next state is `exec_of_bitTest`. -/
theorem bitTestsMemory : Obligations.BitTestsMemory :=
  ⟨fun _ _ => by and_intros <;> rfl, fun _ s hwf => exec_of_bitTest hwf rfl s⟩

end Sys2Proof.Machine
end

section
/-! Shifts and rotates (R190 to R194): their results and carries as numbers, the next state of each on A and on a byte of
memory, and the ring of nine bits, C and A, that a rotate of A turns by one place. -/

namespace Sys2Proof.Machine

/-! ### The results and carries as numbers -/

theorem getLsbD_zero (v : Byte) : v.getLsbD 0 = decide (v.toNat % 2 = 1) := by
  rw [← BitVec.testBit_toNat, Nat.testBit_zero]

/-- ASL doubles, and carries out bit 7 (R191). -/
theorem aslFn_eq (c : Bool) (v : Byte) :
    aslFn c v = (BitVec.ofNat 8 (v.toNat * 2), decide (128 ≤ v.toNat)) := by
  have hres : v <<< 1 = BitVec.ofNat 8 (v.toNat * 2) := by bv_omega
  rw [aslFn, hres, getLsbD_seven]

/-- LSR halves, and carries out the remainder (R192). -/
theorem lsrFn_eq (c : Bool) (v : Byte) :
    lsrFn c v = (BitVec.ofNat 8 (v.toNat / 2), decide (v.toNat % 2 = 1)) := by
  have hres : v >>> 1 = BitVec.ofNat 8 (v.toNat / 2) := by bv_omega
  rw [lsrFn, hres, getLsbD_zero]

theorem carry_toNat (c : Bool) : ((BitVec.ofBool c).setWidth 8).toNat = c.toNat := by
  cases c <;> rfl

/-- ROL brings the carry into the bit that the shift left free, so it adds it (R193). -/
theorem rolFn_eq (c : Bool) (v : Byte) :
    rolFn c v = (BitVec.ofNat 8 (v.toNat * 2 + c.toNat), decide (128 ≤ v.toNat)) := by
  have hfree : (v <<< 1) &&& (BitVec.ofBool c).setWidth 8 = 0 := by
    ext k hk
    interval_cases k <;> simp
  have hcarry := carry_toNat c
  have hres : (v <<< 1) + (BitVec.ofBool c).setWidth 8 = BitVec.ofNat 8 (v.toNat * 2 + c.toNat) := by bv_omega
  rw [rolFn, ← BitVec.add_eq_or_of_and_eq_zero _ _ hfree, hres, getLsbD_seven]

/-- ROR brings the carry into bit 7, which the shift left free, so it adds 128 times the carry (R194). -/
theorem rorFn_eq (c : Bool) (v : Byte) :
    rorFn c v = (BitVec.ofNat 8 (v.toNat / 2 + c.toNat * 128), decide (v.toNat % 2 = 1)) := by
  have hfree : (v >>> 1) &&& ((BitVec.ofBool c).setWidth 8 <<< 7) = 0 := by
    ext k hk
    interval_cases k <;> simp
  have hcarry := carry_toNat c
  have hres : (v >>> 1) + ((BitVec.ofBool c).setWidth 8 <<< 7) = BitVec.ofNat 8 (v.toNat / 2 + c.toNat * 128) := by
    bv_omega
  rw [rorFn, ← BitVec.add_eq_or_of_and_eq_zero _ _ hfree, hres, getLsbD_zero]

/-- The four results and carries as numbers are those of the model's functions. -/
theorem shifts_eq (r : Operand) (u : Byte) (c : Bool) : Claims.shifts r u c =
    [(.asl r, aslFn c u), (.lsr r, lsrFn c u), (.rol r, rolFn c u), (.ror r, rorFn c u)] := by
  rw [aslFn_eq, lsrFn_eq, rolFn_eq, rorFn_eq]
  rfl

/-! ### The next state -/

theorem formCost_of_row {i : Instr} {opc : Byte} {base : Nat} (hrow : Claims.HasRow i opc base false) (s : State) :
    Claims.formCost i s = base := by
  rw [Claims.formCost, hrow]
  rfl

theorem Flags.ofShift_eq (p : Flags) (out : Bool) (res : Byte) :
    p.ofShift out res = Claims.znFrom { p with c := out } res := Flags.setZN_eq_znFrom _ _

/-- On the accumulator a shift writes A and the flags C, Z and N, and makes no access (R190). -/
theorem exec_of_shift_acc {i : Instr} {f : ShiftFn} {opc : Byte} {base : Nat} (hrow : Claims.HasRow i opc base false)
    (hacc : i.operand = .acc) (hsem : semOf i = plainSem (shift f)) (s : State) :
    let res := f s.p.c s.a
    exec i s = .next { s with
      a := res.1, p := Claims.znFrom { s.p with c := res.2 } res.1, cycles := s.cycles + base } := by
  rw [exec_of_plainSem (wf_of_dispatch hrow) hsem, formCost_of_row hrow, hacc, shift, Flags.ofShift_eq]
  rfl

/-- The shifts have the forms of INC and DEC, and the accumulator (R190). -/
theorem isModifyForm_of_shift_form {r : Operand} (h : r.isShiftForm = true) (hacc : r ≠ .acc) :
    r.isModifyForm = true := by
  cases r with
  | acc => exact absurd rfl hacc
  | _ => exact h

/-- On memory a shift reads and writes its effective address once each, writes the flags C, Z and N, and changes nothing
else; plain memory takes the byte (R190). -/
theorem exec_of_shift_memory {i : Instr} {f : ShiftFn} (hwf : i.wf = true) (hsem : semOf i = plainSem (shift f))
    (hform : i.operand.isModifyForm = true) (s : State) :
    let u := Claims.operandValue i.operand s
    let res := f s.p.c u
    ∃ ea mem, Claims.dataAddr i.operand s = some ea ∧ Claims.Stored s.bus mem [(ea, res.1)] ∧
      exec i s = .next { s with
        p := Claims.znFrom { s.p with c := res.2 } res.1,
        cycles := s.cycles + Claims.formCost i s,
        bus := { s.bus with mem := mem, log := .write ea res.1 :: .read ea u :: s.bus.log } } := by
  intro u res
  obtain ⟨ea, hea⟩ := dataAddr_of_onMemory (onMemory_of_modify_form hform) s
  refine ⟨ea, _, hea, s.bus.stored_single ea res.1, ?_⟩
  rw [exec_of_plainSem hwf hsem, shift, operandRead_resolve, operandWrite_afterRead hea,
    resolve_log_of_modify_form hform, Flags.ofShift_eq]
  rfl

/-- Settles O30: the rows stand in the dispatch table, and each instruction is `exec_of_shift_acc` or
`exec_of_shift_memory` at its function, whose result and carry are the numbers of the claim. -/
theorem shiftsAndRotates : Obligations.ShiftsAndRotates := by
  have hasl : Claims.HasRow (.asl .acc) 0x0A 2 false := rfl
  have hlsr : Claims.HasRow (.lsr .acc) 0x4A 2 false := rfl
  have hrol : Claims.HasRow (.rol .acc) 0x2A 2 false := rfl
  have hror : Claims.HasRow (.ror .acc) 0x6A 2 false := rfl
  refine ⟨⟨hasl, hlsr, hrol, hror, ?_, ?_, ?_, ?_⟩, fun s => ?_, fun r s hform hacc => ?_⟩
  iterate 4 exact fun _ _ => by and_intros <;> rfl
  · simp only [shifts_eq, List.forall_mem_cons]
    exact ⟨exec_of_shift_acc hasl rfl rfl s, exec_of_shift_acc hlsr rfl rfl s, exec_of_shift_acc hrol rfl rfl s,
      exec_of_shift_acc hror rfl rfl s, List.forall_mem_nil _⟩
  · have hmodify := isModifyForm_of_shift_form hform hacc
    simp only [shifts_eq, List.forall_mem_cons]
    exact ⟨exec_of_shift_memory (i := .asl r) hform rfl hmodify s,
      exec_of_shift_memory (i := .lsr r) hform rfl hmodify s,
      exec_of_shift_memory (i := .rol r) hform rfl hmodify s,
      exec_of_shift_memory (i := .ror r) hform rfl hmodify s, List.forall_mem_nil _⟩

/-! ### Nine rotates in a row -/

/-- The nine bits that a rotate of A moves in a ring: bit 8 is C, the others are A (R193, R194). -/
def ringBit (s : State) (k : Fin 9) : Bool := if k = 8 then s.p.c else s.a.getLsbD k

theorem a_eq_of_ringBit_eq {s t : State} (h : ∀ k, ringBit t k = ringBit s k) : t.a = s.a := by
  apply BitVec.eq_of_getLsbD_eq
  intro k hk
  have hne : (⟨k, by omega⟩ : Fin 9) ≠ 8 := Fin.ne_of_val_ne hk.ne
  simpa [ringBit, hne] using h ⟨k, by omega⟩

theorem c_eq_of_ringBit_eq {s t : State} (h : ∀ k, ringBit t k = ringBit s k) : t.p.c = s.p.c := h 8

/-- The instruction always completes, in two cycles, and each bit of the ring comes from `d` places above, modulo
nine. -/
def TurnsRing (i : Instr) (d : Fin 9) : Prop :=
  ∀ s, ∃ t, exec i s = .next t ∧ (∀ k, ringBit t k = ringBit s (k + d)) ∧ t.cycles = s.cycles + 2

/-- ROL moves every bit one place up, C into bit 0: from one place below, which is eight above (R193). -/
theorem rol_turnsRing : TurnsRing (.rol .acc) 8 := by
  intro s
  have hrow : Claims.HasRow (.rol .acc) 0x2A 2 false := rfl
  refine ⟨_, exec_of_shift_acc hrow rfl rfl s, fun k => ?_, rfl⟩
  fin_cases k <;> simp [ringBit, Claims.znFrom, rolFn]

/-- ROR moves every bit one place down, C into bit 7 and bit 0 into C (R194). -/
theorem ror_turnsRing : TurnsRing (.ror .acc) 1 := by
  intro s
  have hrow : Claims.HasRow (.ror .acc) 0x6A 2 false := rfl
  refine ⟨_, exec_of_shift_acc hrow rfl rfl s, fun k => ?_, rfl⟩
  fin_cases k <;> simp [ringBit, Claims.znFrom, rorFn]

theorem execAll_replicate_of_turnsRing {i : Instr} {d : Fin 9} (h : TurnsRing i d) (n : Nat) (s : State) :
    ∃ t, Claims.execAll (List.replicate n i) s = .next t ∧ (∀ k, ringBit t k = ringBit s (k + n • d)) ∧
      t.cycles = s.cycles + 2 * n := by
  induction n with
  | zero => exact ⟨s, rfl, fun k => by rw [zero_nsmul, add_zero], rfl⟩
  | succ n ih =>
    obtain ⟨t, hrun, hring, hcycles⟩ := ih
    obtain ⟨u, hstep, hturn, hcost⟩ := h t
    refine ⟨u, ?_, fun k => ?_, ?_⟩
    · rw [List.replicate_succ']
      exact execAll_concat hrun hstep
    · rw [hturn, hring, succ_nsmul', add_assoc]
    · omega

/-- Nine turns of the ring by any number of places are none. -/
theorem nine_nsmul (d : Fin 9) : 9 • d = 0 := by
  decide +revert

theorem nine_restore_of_turnsRing {i : Instr} {d : Fin 9} (h : TurnsRing i d) (s : State) :
    ∃ t, Claims.execAll (List.replicate 9 i) s = .next t ∧ t.a = s.a ∧ t.p.c = s.p.c ∧ t.cycles = s.cycles + 18 := by
  obtain ⟨t, hrun, hring, hcycles⟩ := execAll_replicate_of_turnsRing h 9 s
  simp only [nine_nsmul, add_zero] at hring
  exact ⟨t, hrun, a_eq_of_ringBit_eq hring, c_eq_of_ringBit_eq hring, hcycles⟩

/-- Settles O31: a rotate of A turns the ring of the nine bits by one place, so nine of them bring it back. -/
theorem nineRotatesRestore : Obligations.NineRotatesRestore := by
  intro s
  simp only [List.forall_mem_cons]
  exact ⟨nine_restore_of_turnsRing rol_turnsRing s, nine_restore_of_turnsRing ror_turnsRing s, List.forall_mem_nil _⟩

end Sys2Proof.Machine
end

section
/-! The conditional branches (R200 to R208): the meaning they share with its extra in numbers, and their next state. -/

namespace Sys2Proof.Machine

/-- A branch moves PC to its target where its condition holds, for one extra cycle within the page of the next instruction
and two to another, and does nothing otherwise (R200). -/
theorem branch_rel (cond : State → Bool) (target : Addr) (s : State) : branch cond (.rel target) s =
    if cond s then (s.setPc target, if target.toNat / 256 = s.pc.toNat / 256 then 1 else 2) else (s, 0) := by
  have hextra := branch_extra cond (.rel target) s
  unfold branch at hextra ⊢
  split
  next hcond =>
    rw [if_pos hcond, if_pos hcond] at hextra
    exact Prod.ext rfl (hextra.trans (by simp only [jumpTo, State.setPc_pc, eq_comm]))
  next => rfl

/-- A branch's row costs two cycles; PC and the counter are all it writes (R77, R200). -/
theorem exec_of_branch {i : Instr} {opc rr : Byte} {cond : State → Bool} (hrow : Claims.HasRow i opc 2 false)
    (hrel : i.operand = .rel rr) (hsem : semOf i = branch cond) (s : State) :
    let target := Claims.branchTarget s.pc rr
    exec i s = .next (if cond s then
      { s with pc := target, cycles := s.cycles + (if target.toNat / 256 = s.pc.toNat / 256 then 3 else 4) }
    else { s with cycles := s.cycles + 2 }) := by
  rw [exec_of_row hrow, runRow, hrel, hsem, resolve, add_sext16_eq_branchTarget, branch_rel]
  dsimp only
  split
  · split <;> rfl
  · rfl

/-- Settles O32: the rows stand in the dispatch table, and each branch is `exec_of_branch` at its condition. -/
theorem branchesGoToTarget : Obligations.BranchesGoToTarget := by
  intro rr s
  simp only [List.forall_mem_cons]
  exact ⟨⟨rfl, exec_of_branch (i := .bcc rr) rfl rfl rfl s⟩, ⟨rfl, exec_of_branch (i := .bcs rr) rfl rfl rfl s⟩,
    ⟨rfl, exec_of_branch (i := .beq rr) rfl rfl rfl s⟩, ⟨rfl, exec_of_branch (i := .bne rr) rfl rfl rfl s⟩,
    ⟨rfl, exec_of_branch (i := .bmi rr) rfl rfl rfl s⟩, ⟨rfl, exec_of_branch (i := .bpl rr) rfl rfl rfl s⟩,
    ⟨rfl, exec_of_branch (i := .bvc rr) rfl rfl rfl s⟩, ⟨rfl, exec_of_branch (i := .bvs rr) rfl rfl rfl s⟩,
    List.forall_mem_nil _⟩

end Sys2Proof.Machine
end

section
/-! Jumps, subroutines and the stack (R220 to R226): what a push stores and what a pull answers, of a byte and of a word;
from these the next state of every instruction of the family, and the round trips of a push and its pull. -/

namespace Sys2Proof.Machine

/-! ### Jumps -/

theorem ofBytes_eq_ofNat (hh ll : Byte) : ofBytes hh ll = BitVec.ofNat 16 (hh.toNat * 256 + ll.toNat) := by
  rw [← ofBytes_toNat, BitVec.ofNat_toNat, BitVec.setWidth_eq]

/-- An instruction whose row takes no page-crossing penalty and whose meaning adds no extra pays the base of its row (R100,
R101). -/
theorem exec_of_plainSem_row {i : Instr} {f : Target → State → State} {opc : Byte} {base : Nat}
    (hrow : Claims.HasRow i opc base false) (hsem : semOf i = plainSem f) (s : State) :
    exec i s = .next ((f (resolve i.operand s).1 (resolve i.operand s).2).addCycles base) := by
  rw [exec_of_plainSem (wf_of_dispatch hrow) hsem, formCost_of_row hrow]

/-- Settles O33: the meaning moves PC to the resolved address, and the resolver reads the pointer as O16 says. -/
theorem jumpsGoToAddress : Obligations.JumpsGoToAddress := by
  intro w s
  have habs : Claims.HasRow (.jmp (.abs w)) 0x4C 3 false := rfl
  have hind : Claims.HasRow (.jmp (.ind w)) 0x6C 5 false := rfl
  obtain ⟨-, -, -, -, -, -, -, -, -, ⟨lo, hi, hlo, hhi, hresolve⟩, -⟩ := resolverModes s 0 w
  refine ⟨habs, hind, exec_of_plainSem_row habs rfl s, lo, hi, hlo, hhi, ?_⟩
  rw [exec_of_plainSem_row hind rfl, Instr.operand, hresolve, ofBytes_eq_ofNat]
  rfl

/-! ### Stores in a row -/

/-- One more store to another address, on a bus with the same windows. -/
theorem stored_append {b c : Bus} {ws : List (Addr × Byte)} (h : Claims.Stored b c.mem ws) (hwin : c.windows = b.windows)
    {a : Addr} (hne : ∀ w ∈ ws, w.1 ≠ a) (v : Byte) : Claims.Stored b (c.stored a v) (ws ++ [(a, v)]) := by
  intro hplain
  obtain ⟨hthere, hother⟩ := h fun w hw => hplain w (List.mem_append_left _ hw)
  have ha : c.inWindow a = false :=
    (Bus.inWindow_congr hwin a).trans (hplain (a, v) (List.mem_append_right _ (List.mem_singleton_self _)))
  obtain ⟨hlast, hkept⟩ := c.stored_single a v (by simpa [Claims.Plain] using ha)
  refine ⟨fun w hw => ?_, fun d hd => ?_⟩
  · obtain hw | hw := List.mem_append.mp hw
    · exact (hkept w.1 (by simpa using (hne w hw).symm)).trans (hthere w hw)
    · exact hlast w hw
  · exact (hkept d fun w hw => hd w (List.mem_append_right _ hw)).trans
      (hother d fun w hw => hd w (List.mem_append_left _ hw))

/-! ### Pushes -/

theorem slot_injective {u v : Byte} (h : Claims.slot u = Claims.slot v) : u = v := by
  rw [slot_eq_stackAddr, slot_eq_stackAddr] at h
  exact stackAddr_injective h

/-- A push writes the byte SP designates and takes one from SP (R62). -/
theorem State.push_eq (s : State) (v : Byte) : s.push v = { s with
    sp := s.sp - 1,
    bus := { s.bus with
      mem := s.bus.stored (Claims.slot s.sp) v, log := .write (Claims.slot s.sp) v :: s.bus.log } } := by
  rw [slot_eq_stackAddr]
  rfl

/-- A two-byte push writes the high byte, then the low byte one slot below, and nothing else (R62, R221). -/
theorem State.pushWord_stored (s : State) (w : Addr) : ∃ mem,
    Claims.Stored s.bus mem [(Claims.slot s.sp, hiByte w), (Claims.slot (s.sp - 1), loByte w)] ∧
    s.pushWord w = { s with
      sp := s.sp - 2,
      bus := { s.bus with
        mem := mem,
        log := .write (Claims.slot (s.sp - 1)) (loByte w) :: .write (Claims.slot s.sp) (hiByte w) :: s.bus.log } } := by
  have hsp : s.sp - 2 = s.sp - 1 - 1 := by bv_omega
  have hne : Claims.slot s.sp ≠ Claims.slot (s.sp - 1) := fun h => by
    have hsame : s.sp = s.sp - 1 := slot_injective h
    bv_omega
  have hhigh : Claims.Stored s.bus (s.push (hiByte w)).bus.mem [(Claims.slot s.sp, hiByte w)] := by
    rw [State.push_eq]
    exact s.bus.stored_single _ _
  refine ⟨_, stored_append hhigh rfl (by simpa using hne) (loByte w), ?_⟩
  rw [hsp, State.pushWord, State.push_eq, State.push_eq]

/-- An instruction that pushes the byte `get` reads stores it at the slot of SP and changes nothing else but SP (R62). -/
theorem exec_of_push {i : Instr} {get : State → Byte} {opc : Byte} {base : Nat} (hrow : Claims.HasRow i opc base false)
    (himp : i.operand = .imp) (hsem : semOf i = plainSem fun _ s => s.push (get s)) (s : State) :
    ∃ mem, Claims.Stored s.bus mem [(Claims.slot s.sp, get s)] ∧
      exec i s = .next { s with
        sp := s.sp - 1, cycles := s.cycles + base,
        bus := { s.bus with mem := mem, log := .write (Claims.slot s.sp) (get s) :: s.bus.log } } := by
  refine ⟨_, s.bus.stored_single _ _, ?_⟩
  rw [exec_of_implied hrow himp hsem, State.push_eq]
  rfl

/-- Settles O36: each instruction is `exec_of_push` at its byte. -/
theorem pushesStoreOneByte : Obligations.PushesStoreOneByte := by
  intro s
  have hpha : Claims.HasRow .pha 0x48 3 false := rfl
  have hphp : Claims.HasRow .php 0x08 3 false := rfl
  simp only [List.forall_mem_cons, ← Flags.pack_eq_statusByte]
  exact ⟨hpha, hphp, exec_of_push hpha rfl rfl s, exec_of_push (get := fun s => s.p.pack true) hphp rfl rfl s,
    List.forall_mem_nil _⟩

/-- JSR pushes the address before the next instruction and goes to its operand (R221). -/
theorem exec_jsr (w : Addr) (s : State) :
    exec (.jsr w) s = .next (((s.pushWord (s.pc - 1)).setPc w).addCycles 6) :=
  exec_of_plainSem_row (i := .jsr w) (opc := 0x20) rfl rfl s

/-- Settles O34, from what a two-byte push stores. -/
theorem jsrPushesReturnAddress : Obligations.JsrPushesReturnAddress := by
  intro w s
  obtain ⟨mem, hstored, hpush⟩ := s.pushWord_stored (s.pc - 1)
  refine ⟨rfl, mem, hstored, ?_⟩
  rw [exec_jsr, hpush]
  rfl

/-! ### Pulls -/

/-- A pull adds one to SP and reads the byte it then designates; only the history has changed besides (R63). -/
theorem State.pull_answered (s : State) : ∃ v, Claims.Answered s (Claims.slot (s.sp + 1)) v ∧
    s.pull = (v, { s with
      sp := s.sp + 1,
      bus := { s.bus with log := .read (Claims.slot (s.sp + 1)) v :: s.bus.log } }) := by
  rw [slot_eq_stackAddr]
  exact ⟨_, Bus.answer_of_plain, rfl⟩

/-- A two-byte pull is two pulls, the low byte first (R63, R222). -/
theorem State.pullWord_answered (s : State) : ∃ lo hi,
    Claims.Answered s (Claims.slot (s.sp + 1)) lo ∧ Claims.Answered s (Claims.slot (s.sp + 2)) hi ∧
    s.pullWord = (ofBytes hi lo, { s with
      sp := s.sp + 2,
      bus := { s.bus with
        log := .read (Claims.slot (s.sp + 2)) hi :: .read (Claims.slot (s.sp + 1)) lo :: s.bus.log } }) := by
  have hsp : s.sp + 2 = s.sp + 1 + 1 := by bv_omega
  obtain ⟨lo, hlo, hpullLo⟩ := s.pull_answered
  obtain ⟨hi, hhi, hpullHi⟩ := s.pull.2.pull_answered
  rw [hpullLo] at hhi hpullHi
  refine ⟨lo, hi, hlo, hsp ▸ hhi, ?_⟩
  rw [hsp, State.pullWord, hpullLo, hpullHi]

/-- The word a two-byte pull gives depends on the bus and SP alone. -/
theorem State.pullWord_fst_congr {s t : State} (hbus : t.bus = s.bus) (hsp : t.sp = s.sp) :
    t.pullWord.1 = s.pullWord.1 := by
  rw [State.pullWord_fst, State.pullWord_fst, hbus, hsp]

theorem exec_rts (s : State) : exec .rts s = .next ((s.pullWord.2.setPc (s.pullWord.1 + 1)).addCycles 6) :=
  exec_of_implied (i := .rts) (opc := 0x60) rfl rfl rfl s

/-- PLA in full: one pull into A, with Z and N from it (R224). -/
theorem exec_pla (s : State) :
    exec .pla s = .next (((s.pull.2.setA s.pull.1).setP (Claims.znFrom s.p s.pull.1)).addCycles 4) := by
  rw [exec_of_implied (i := .pla) (opc := 0x68) (base := 4) rfl rfl rfl, pullA, Flags.setZN_eq_znFrom]
  rfl

theorem exec_plp (s : State) : exec .plp s = .next (s.pullStatus.addCycles 4) :=
  exec_of_implied (i := .plp) (opc := 0x28) rfl rfl rfl s

/-- Settles O35, from what a two-byte pull answers. -/
theorem rtsPullsReturnAddress : Obligations.RtsPullsReturnAddress := by
  intro s
  obtain ⟨lo, hi, hlo, hhi, hpull⟩ := s.pullWord_answered
  have hpc : BitVec.ofNat 16 (hi.toNat * 256 + lo.toNat + 1) = ofBytes hi lo + 1 := by
    rw [BitVec.ofNat_add, ofBytes_eq_ofNat]
    rfl
  refine ⟨rfl, lo, hi, hlo, hhi, ?_⟩
  rw [exec_rts, hpull, hpc]
  rfl

/-- Settles O37, from what a pull answers. -/
theorem pullsReadOneByte : Obligations.PullsReadOneByte := by
  intro s
  obtain ⟨v, hv, hpull⟩ := s.pull_answered
  refine ⟨rfl, rfl, v, hv, ?_, ?_⟩
  · rw [exec_pla, hpull]
    rfl
  · rw [exec_plp, State.pullStatus, hpull]
    rfl

/-! ### A push, then its pull -/

theorem execAll_pair {i j : Instr} {s t u : State} (hi : exec i s = .next t) (hj : exec j t = .next u) :
    Claims.execAll [i, j] s = .next u := by
  simp only [Claims.execAll, hi, hj]

theorem exec_pha (s : State) : exec .pha s = .next ((s.push s.a).addCycles 3) :=
  exec_of_implied (i := .pha) (opc := 0x48) rfl rfl rfl s

/-- A stack in plain memory is plain at every stack address of the model (R61). -/
theorem inWindow_stackAddr_of_plainStack {s : State} (h : Claims.PlainStack s) (sp : Byte) :
    s.bus.inWindow (stackAddr sp) = false := by
  rw [← slot_eq_stackAddr]
  exact h sp

/-- Settles O38: the pull gives the byte pushed, and the unpacked status byte is the flags with its bit 4 for B. -/
theorem pushThenPullRestores : Obligations.PushThenPullRestores := by
  intro s hplain
  have hpull (v : Byte) := s.pull_push v (inWindow_stackAddr_of_plainStack hplain s.sp)
  refine ⟨?_, ?_⟩
  · obtain ⟨hv, hsp⟩ := hpull s.a
    exact ⟨_, execAll_pair (exec_pha s) (exec_pla _), hv, hsp, congrArg (Claims.znFrom s.p) hv⟩
  · obtain ⟨hv, hsp⟩ := hpull (s.p.pack true)
    exact ⟨_, execAll_pair (exec_php s) (exec_plp _), hsp, (congrArg Flags.unpack hv).trans (s.p.unpack_pack true)⟩

/-- RTS on a stack in plain memory, where SP and the bus are as a two-byte push left them: it goes to the address after the
one pushed, with SP as it was before the push (R222). -/
theorem exec_rts_of_pushed {s t : State} {v : Addr} (hplain : Claims.PlainStack s) (hbus : t.bus = (s.pushWord v).bus)
    (hsp : t.sp = (s.pushWord v).sp) : ∃ u, exec .rts t = .next u ∧ u.pc = v + 1 ∧ u.sp = s.sp ∧ u.p = t.p ∧ u.a = t.a ∧
      u.cycles = t.cycles + 6 := by
  obtain ⟨hword, hback⟩ := s.pullWord_pushWord v (inWindow_stackAddr_of_plainStack hplain s.sp)
    (inWindow_stackAddr_of_plainStack hplain (s.sp - 1))
  have hret : t.pullWord.1 = v := (State.pullWord_fst_congr hbus hsp).trans hword
  rw [State.pullWord_sp, ← hsp] at hback
  exact ⟨_, exec_rts t, by rw [hret, State.addCycles_pc, State.setPc_pc], by simpa using hback, by simp, by simp, by simp⟩

/-- Settles O39: the word pushed is PC minus one, and RTS adds the one. -/
theorem rtsAfterJsrReturns : Obligations.RtsAfterJsrReturns := by
  intro w s hplain
  obtain ⟨u, hrts, hpc, hsp, hp, ha, hcycles⟩ := exec_rts_of_pushed hplain (v := s.pc - 1)
    (t := ((s.pushWord (s.pc - 1)).setPc w).addCycles 6) (by simp) (by simp)
  exact ⟨u, execAll_pair (exec_jsr w s) hrts, by rw [hpc, BitVec.sub_add_cancel], hsp, by simpa using hp, by simpa using ha,
    by simpa using hcycles⟩

end Sys2Proof.Machine
end

section
/-! The flag instructions and the no-operations (R239 to R246, R249, R250): each has no operand, so it is
`exec_of_implied` at its meaning. -/

namespace Sys2Proof.Machine

/-- Settles O40: the rows stand in the dispatch table, and each instruction is `exec_of_implied` at its flag. -/
theorem flagInstructionsWriteOneFlag : Obligations.FlagInstructionsWriteOneFlag := by
  intro s
  have hclc : Claims.HasRow .clc 0x18 2 false := rfl
  have hsec : Claims.HasRow .sec 0x38 2 false := rfl
  have hcld : Claims.HasRow .cld 0xD8 2 false := rfl
  have hsed : Claims.HasRow .sed 0xF8 2 false := rfl
  have hcli : Claims.HasRow .cli 0x58 2 false := rfl
  have hsei : Claims.HasRow .sei 0x78 2 false := rfl
  have hclv : Claims.HasRow .clv 0xB8 2 false := rfl
  simp only [List.forall_mem_cons]
  exact ⟨⟨hclc, exec_of_implied hclc rfl rfl s⟩, ⟨hsec, exec_of_implied hsec rfl rfl s⟩,
    ⟨hcld, exec_of_implied hcld rfl rfl s⟩, ⟨hsed, exec_of_implied hsed rfl rfl s⟩,
    ⟨hcli, exec_of_implied hcli rfl rfl s⟩, ⟨hsei, exec_of_implied hsei rfl rfl s⟩,
    ⟨hclv, exec_of_implied hclv rfl rfl s⟩, List.forall_mem_nil _⟩

/-- Settles O43: both meanings are the identity, and an undocumented opcode has its row. -/
theorem noOperationsOnlyCost : Obligations.NoOperationsOnlyCost := by
  intro s
  have hnop : Claims.HasRow .nop 0xEA 2 false := rfl
  exact ⟨hnop, exec_of_implied hnop rfl rfl s, fun opc hmem =>
    ⟨dispatch_undoc hmem, exec_of_implied (dispatch_undoc hmem) rfl rfl s⟩⟩

end Sys2Proof.Machine
end

section
/-! Events (R247, R248, R271 to R288, R331): what an entry pushes and reads, and what RTI pulls; from these the entries of
BRK, NMI and IRQ, the return from each, and which of them a boundary takes. -/

namespace Sys2Proof.Machine

/-! ### An entry in full -/

/-- The word of a vector: its two bytes are possible answers, low byte first, and only PC and the history change (R280,
R320). -/
theorem State.jumpVector_answered (s : State) (vec : Addr) : ∃ lo hi,
    Claims.Answered s vec lo ∧ Claims.Answered s (vec + 1) hi ∧
    s.jumpVector vec = { s with
      pc := ofBytes hi lo,
      bus := { s.bus with log := .read (vec + 1) hi :: .read vec lo :: s.bus.log } } := by
  obtain ⟨lo, hi, hlo, hhi, hread⟩ := readPair_answered s vec (vec + 1)
  refine ⟨lo, hi, hlo, hhi, ?_⟩
  rw [State.jumpVector, State.read16, hread]
  rfl

/-- The pushes of an entry: the return address, then the status byte one slot below, and nothing else (R280). -/
theorem State.pushFrame_stored (s : State) (e : Event) :
    let ret := e.returnAddr s.pc
    ∃ mem, Claims.Stored s.bus mem (Claims.frame s ret e.breakBit) ∧
      s.pushFrame e = { s with
        sp := s.sp - 3,
        bus := { s.bus with
          mem := mem,
          log := .write (Claims.slot (s.sp - 2)) (Claims.statusByte s.p e.breakBit)
            :: .write (Claims.slot (s.sp - 1)) (loByte ret) :: .write (Claims.slot s.sp) (hiByte ret)
            :: s.bus.log } } := by
  intro ret
  have hsp : s.sp - 3 = s.sp - 2 - 1 := by bv_omega
  have hne : Claims.slot s.sp ≠ Claims.slot (s.sp - 2) := fun h => by
    have hsame : s.sp = s.sp - 2 := slot_injective h
    bv_omega
  have hne' : Claims.slot (s.sp - 1) ≠ Claims.slot (s.sp - 2) := fun h => by
    have hsame : s.sp - 1 = s.sp - 2 := slot_injective h
    bv_omega
  obtain ⟨mem, hword, hpush⟩ := s.pushWord_stored ret
  have hstored : Claims.Stored s.bus (s.pushWord ret).bus.mem
      [(Claims.slot s.sp, hiByte ret), (Claims.slot (s.sp - 1), loByte ret)] := by
    rw [hpush]
    exact hword
  refine ⟨_, stored_append hstored rfl (by simpa using ⟨hne, hne'⟩) (Claims.statusByte s.p e.breakBit), ?_⟩
  rw [hsp, State.pushFrame, State.push_eq, Flags.pack_eq_statusByte, hpush]

/-- No byte an entry pushes lies at a vector (R61, R271). -/
theorem frame_ne_vector (s : State) (ret : Addr) (b : Bool) (e : Event) :
    ∀ w ∈ Claims.frame s ret b, w.1 ≠ e.vector ∧ w.1 ≠ e.vector + 1 := by
  simp only [Claims.frame, List.forall_mem_cons, slot_eq_stackAddr]
  exact ⟨stackAddr_ne_vector _ e, stackAddr_ne_vector _ e, stackAddr_ne_vector _ e, List.forall_mem_nil _⟩

/-- An entry pushes the frame of its event, sets I and goes through its vector (R280). -/
theorem enterInterrupt_entered (s : State) (e : Event) (cost : Nat) :
    Claims.Entered s ((s.enterInterrupt e).addCycles cost) (e.returnAddr s.pc) e.vector e.breakBit cost := by
  obtain ⟨mem, hstored, hpush⟩ := (s.setIc e.servicing).pushFrame_stored e
  obtain ⟨lo, hi, hlo, hhi, hjump⟩ := ((s.setIc e.servicing).pushFrame e).maskIrq.jumpVector_answered e.vector
  rw [hpush] at hlo hhi
  refine ⟨mem, lo, hi, ?_, hstored, fun hplain => ?_⟩
  · rw [State.enterInterrupt, hjump, hpush]
    rfl
  · obtain ⟨-, hother⟩ := hstored hplain
    have hne := frame_ne_vector s (e.returnAddr s.pc) e.breakBit e
    exact ⟨fun hw => (hlo hw).trans (hother _ fun w hm => (hne w hm).1),
      fun hw => (hhi hw).trans (hother _ fun w hm => (hne w hm).2)⟩

/-- An NMI entry clears the latch, then enters (R273). -/
theorem takeEvent_nmi_entered (s : State) :
    Claims.Entered { s with nmiPending := false } (s.takeEvent .nmi) s.pc 0xFFFA false 7 :=
  enterInterrupt_entered (s.setNmiPending false) .nmi 7

theorem takeEvent_irq_entered (s : State) : Claims.Entered s (s.takeEvent .irq) s.pc 0xFFFE false 7 :=
  enterInterrupt_entered s .irq 7

theorem takeEvent_brk_entered (s : State) : Claims.Entered s (s.takeEvent .brk) (s.pc + 1) 0xFFFE true 7 :=
  enterInterrupt_entered s .brk 7

/-- Settles O41: BRK is the entry of its event. -/
theorem brkEntersThroughVector : Obligations.BrkEntersThroughVector := fun s =>
  ⟨rfl, _, exec_brk s, takeEvent_brk_entered s⟩

/-! ### RTI -/

/-- PLP's pull, and the first one of RTI: the flags are those of the byte pulled (R226, R248). -/
theorem State.pullStatus_answered (s : State) : ∃ v, Claims.Answered s (Claims.slot (s.sp + 1)) v ∧
    s.pullStatus = { s with
      sp := s.sp + 1, p := Claims.flagsOf v,
      bus := { s.bus with log := .read (Claims.slot (s.sp + 1)) v :: s.bus.log } } := by
  obtain ⟨v, hv, hpull⟩ := s.pull_answered
  refine ⟨v, hv, ?_⟩
  rw [State.pullStatus, hpull]
  rfl

theorem exec_rti (s : State) : exec .rti s = .next (s.returnFromInterrupt.addCycles 6) :=
  exec_of_implied (i := .rti) (opc := 0x40) rfl rfl rfl s

/-- Settles O42, from what the pull of the status byte and the two-byte pull answer. -/
theorem rtiRestoresStatusAndPc : Obligations.RtiRestoresStatusAndPc := by
  intro s
  have hsp2 : s.sp + 2 = s.sp + 1 + 1 := by bv_omega
  have hsp3 : s.sp + 3 = s.sp + 1 + 2 := by bv_omega
  obtain ⟨v, hv, hstatus⟩ := s.pullStatus_answered
  obtain ⟨lo, hi, hlo, hhi, hword⟩ := s.pullStatus.pullWord_answered
  rw [hstatus] at hlo hhi hword
  refine ⟨rfl, v, lo, hi, hv, hsp2 ▸ hlo, hsp3 ▸ hhi, ?_⟩
  rw [exec_rti, State.returnFromInterrupt, hstatus, hword, ← ofBytes_eq_ofNat, hsp2, hsp3]
  rfl

theorem flagsOf_statusByte (p : Flags) (b : Bool) : Claims.flagsOf (Claims.statusByte p b) = { p with b := b } := by
  rw [← Flags.pack_eq_statusByte]
  exact p.unpack_pack b

theorem plain_frame_of_plainStack {s : State} (h : Claims.PlainStack s) (ret : Addr) (b : Bool) :
    Claims.Plain s.bus (Claims.frame s ret b) := by
  simp only [Claims.Plain, Claims.frame, List.forall_mem_cons]
  exact ⟨h _, h _, h _, List.forall_mem_nil _⟩

/-- On a stack in plain memory RTI right after an entry undoes it: PC is the address pushed, B the bit pushed, and SP, the
other flags, A, X and Y are as before (R286). -/
theorem exec_rti_of_entered {s t : State} {ret vec : Addr} {b : Bool} {cost : Nat}
    (h : Claims.Entered s t ret vec b cost) (hplain : Claims.PlainStack s) : ∃ u, exec .rti t = .next u ∧
      u.pc = ret ∧ u.sp = s.sp ∧ u.a = s.a ∧ u.x = s.x ∧ u.y = s.y ∧ u.p = { s.p with b := b } := by
  obtain ⟨mem, _, _, ht, hstored, -⟩ := h
  obtain ⟨hthere, -⟩ := hstored (plain_frame_of_plainStack hplain ret b)
  simp only [Claims.frame, List.forall_mem_cons] at hthere
  obtain ⟨hhigh, hlow, hstatus, -⟩ := hthere
  have hsp : t.sp = s.sp - 3 := by rw [ht]
  have hsp1 : t.sp + 1 = s.sp - 2 := by bv_omega
  have hsp2 : t.sp + 2 = s.sp - 1 := by bv_omega
  have hsp3 : t.sp + 3 = s.sp := by bv_omega
  have hanswer {sp v : Byte} (hv : Claims.Answered t (Claims.slot sp) v) : v = Claims.cell mem (Claims.slot sp) := by
    rw [ht] at hv
    exact hv (hplain sp)
  obtain ⟨-, v, lo, hi, hv, hlo, hhi, hrti⟩ := rtiRestoresStatusAndPc t
  rw [hsp1] at hv
  rw [hsp2] at hlo
  rw [hsp3] at hhi
  obtain rfl : v = Claims.statusByte s.p b := (hanswer hv).trans hstatus
  obtain rfl : lo = loByte ret := (hanswer hlo).trans hlow
  obtain rfl : hi = hiByte ret := (hanswer hhi).trans hhigh
  rw [← ofBytes_eq_ofNat, ofBytes_hi_lo, flagsOf_statusByte] at hrti
  exact ⟨_, hrti, rfl, hsp3, by rw [ht], by rw [ht], by rw [ht], rfl⟩

/-! ### Which event a boundary takes -/

theorem step_of_event {s : State} {e : Event} (h : s.pendingEvent = some e) : step s = .next (s.takeEvent e) := by
  rw [step, h]

theorem pendingEvent_of_nmi {s : State} (h : s.nmiPending = true) : s.pendingEvent = some .nmi := by
  rw [State.pendingEvent, if_pos h]

theorem pendingEvent_of_irq {s : State} (hnmi : s.nmiPending = false) (hline : s.irqLine = true)
    (hmask : s.p.i = false) : s.pendingEvent = some .irq := by
  simp [State.pendingEvent, hnmi, hline, hmask]

theorem pendingEvent_eq_none {s : State} (hnmi : s.nmiPending = false) (hmask : s.irqLine = false ∨ s.p.i = true) :
    s.pendingEvent = none := by
  obtain hline | hi := hmask
  · simp [State.pendingEvent, hnmi, hline]
  · simp [State.pendingEvent, hnmi, hi]

/-- Settles O49: the entry clears the latch and sets I, so no event is pending after it. -/
theorem nmiIsEnteredFirst : Obligations.NmiIsEnteredFirst := fun s hnmi =>
  ⟨_, step_of_event (pendingEvent_of_nmi hnmi), takeEvent_nmi_entered s,
    pendingEvent_eq_none (by simp) (.inr (by simp))⟩

/-- Settles O50: an unmasked line is the event of the boundary, and without it there is none. -/
theorem irqIsEnteredWhenUnmasked : Obligations.IrqIsEnteredWhenUnmasked := fun s hnmi =>
  ⟨fun hline hmask => ⟨_, step_of_event (pendingEvent_of_irq hnmi hline hmask), takeEvent_irq_entered s⟩,
    fun hmask => step_of_no_event (pendingEvent_eq_none hnmi hmask)⟩

/-- With the IRQ line active and no NMI pending, the mask alone decides what follows an instruction, which changes neither
input (R40, R41, R331). -/
theorem step_after_exec_goes_by_mask {i : Instr} {s t : State} (ht : exec i s = .next t) (hline : s.irqLine = true)
    (hnmi : s.nmiPending = false) :
    (t.p.i = false → ∃ u, step t = .next u ∧ Claims.Entered t u t.pc 0xFFFE false 7) ∧
    (t.p.i = true → step t = exec t.fetchInstr.1 t.fetchInstr.2) := by
  obtain ⟨-, -, hlatch, hlevel, -⟩ := memoryAndPcChangeOnlyAsListed i s t ht
  obtain ⟨henter, hrun⟩ := irqIsEnteredWhenUnmasked t (hlatch.trans hnmi)
  exact ⟨henter (hlevel.trans hline), fun hmask => hrun (.inr hmask)⟩

theorem exec_cli (s : State) : exec .cli s = .next { s with p := { s.p with i := false }, cycles := s.cycles + 2 } :=
  exec_of_implied (i := .cli) (opc := 0x58) rfl rfl rfl s

theorem exec_sei (s : State) : exec .sei s = .next { s with p := { s.p with i := true }, cycles := s.cycles + 2 } :=
  exec_of_implied (i := .sei) (opc := 0x78) rfl rfl rfl s

/-- Settles O51: the step after each of the four instructions goes by the mask it left. -/
theorem changeOfMaskCountsAtOnce : Obligations.ChangeOfMaskCountsAtOnce := by
  intro s hline hnmi
  have hnext {i : Instr} {t : State} (ht : exec i s = .next t) := step_after_exec_goes_by_mask ht hline hnmi
  refine ⟨?_, ⟨_, exec_sei s, (hnext (exec_sei s)).2 rfl⟩, ?_⟩
  · obtain ⟨u, hu, hentered⟩ := (hnext (exec_cli s)).1 rfl
    exact ⟨_, u, exec_cli s, hu, hentered⟩
  · simp only [List.forall_mem_cons]
    exact ⟨⟨_, exec_plp s, hnext (exec_plp s)⟩, ⟨_, exec_rti s, hnext (exec_rti s)⟩, List.forall_mem_nil _⟩

/-- Settles O52: the boundary takes an NMI or an IRQ, and RTI undoes either entry, and BRK's. -/
theorem returnFromInterruptResumes : Obligations.ReturnFromInterruptResumes := by
  refine fun s hplain => ⟨fun e he => ?_, ?_⟩
  · obtain ⟨-, h⟩ | ⟨-, -, -, h⟩ | ⟨-, -, h⟩ := s.pendingEvent_cases
    · exact ⟨_, (exec_rti_of_entered (takeEvent_nmi_entered s) hplain).imp fun _ hu => ⟨step_of_event h, hu⟩⟩
    · exact ⟨_, (exec_rti_of_entered (takeEvent_irq_entered s) hplain).imp fun _ hu => ⟨step_of_event h, hu⟩⟩
    · cases h.symm.trans he
  · obtain ⟨u, hrti, hu⟩ := exec_rti_of_entered (takeEvent_brk_entered s) hplain
    exact ⟨u, execAll_pair (exec_brk s) hrti, hu⟩

/-! ### The interrupt inputs -/

/-- A step leaves the level of the IRQ line and no NMI pending: it takes one that is, and no instruction sets the latch
(R273, R274). -/
theorem step_interrupt_inputs {s t : State} (h : step s = .next t) : t.irqLine = s.irqLine ∧ t.nmiPending = false := by
  obtain ⟨hnmi, he⟩ | ⟨hnmi, -, -, he⟩ | ⟨hnmi, -, he⟩ := s.pendingEvent_cases
  · cases (step_of_event he).symm.trans h
    simp
  · cases (step_of_event he).symm.trans h
    simp [hnmi]
  · obtain ⟨_, _, _, _, hfetch⟩ := fetchInstr_spec s
    rw [step_of_no_event he, hfetch] at h
    obtain ⟨-, -, hlatch, hlevel, -⟩ := memoryAndPcChangeOnlyAsListed _ _ t h
    exact ⟨hlevel, hlatch.trans hnmi⟩

/-- Settles O56, from what each call and a step do to the two inputs. -/
theorem interruptInputs : Obligations.InterruptInputs :=
  ⟨fun s _ => ⟨rfl, rfl, rfl, s.resetCall_irqLine, s.resetCall_nmiPending⟩, fun _ _ h => step_interrupt_inputs h⟩

end Sys2Proof.Machine
end

section
/-! Reset, power-on and the end of a run (R320 to R325, R337). -/

namespace Sys2Proof.Machine

/-! ### Reset and power-on -/

/-- Settles O54, from the two reads of the reset vector. -/
theorem resetSequence : Obligations.ResetSequence := by
  intro s
  obtain ⟨lo, hi, hlo, hhi, hjump⟩ :=
    (((s.setIc .servicingReset).setSp (s.sp - 3)).maskIrq.setNmiPending false).jumpVector_answered resetVector
  refine ⟨lo, hi, hlo, hhi, ?_⟩
  rw [hostCall, State.resetCall, hjump, ← ofBytes_eq_ofNat]
  rfl

/-- Settles O55: power-on ends with the reset call, on the state that the draw gives. -/
theorem powerOnState : Obligations.PowerOnState := by
  intro d b
  obtain ⟨lo, hi, hlo, hhi, hreset⟩ := resetSequence
    { a := d.a, x := d.x, y := d.y, sp := d.sp, pc := 0x0000,
      p := { c := d.c, z := d.z, i := true, d := d.d, b := d.b, v := d.v, n := d.n },
      nmiPending := false, irqLine := false, ic := .running, cycles := d.cycles, bus := b }
  exact ⟨lo, hi, hlo, hhi, Host.Outcome.next.inj hreset⟩

/-- Power-on stores nothing and ends Running (R322). -/
theorem powerOn_inv (d : Config.PowerOn) {b : Bus} (h : Memory.wf b.mem = true) : (State.powerOn d b).inv = true := by
  simp [State.inv_iff, State.powerOn, h]

/-- Settles O10: `State.reset` is a power-on, and the empty memory is canonical. -/
theorem resetMeetsInvariant : Obligations.ResetMeetsInvariant :=
  ⟨fun d _ h => powerOn_inv d h, reset_eq_powerOn, reset_eq_powerOn ▸ powerOn_inv _ rfl⟩

/-! ### The end of a run -/

/-- In plain memory a fetch reads the bytes that memory holds from PC on, and moves PC past them (R55, R103). -/
theorem fetchInstr_of_plain {s : State}
    (hplain : ∀ k < s.fetchInstr.1.size, s.bus.inWindow (s.pc + BitVec.ofNat 16 k) = false) : ∃ bytes,
    decode bytes = .instr s.fetchInstr.1 [] ∧
    (∀ k < s.fetchInstr.1.size, bytes[k]? = some (s.byteAt (s.pc + BitVec.ofNat 16 k))) ∧
    s.fetchInstr.2 = { s with
      pc := s.pc + BitVec.ofNat 16 s.fetchInstr.1.size,
      bus := { s.bus with log := Claims.fetchReads s s.fetchInstr.1.size ++ s.bus.log } } := by
  obtain ⟨bytes, hdec, hlen, hbytes, hstate⟩ := fetchInstr_spec s
  have hheld (k : Nat) (v : Byte) (hv : bytes[k]? = some v) : v = s.byteAt (s.pc + BitVec.ofNat 16 k) :=
    hbytes k v hv (hplain k (hlen ▸ (List.getElem?_eq_some_iff.mp hv).1))
  refine ⟨bytes, hdec, fun k hk => ?_, ?_⟩
  · have hget := List.getElem?_eq_getElem (hlen ▸ hk : k < bytes.length)
    rw [hget, hheld k _ hget]
  · rw [← hlen, ← readsFrom_eq_fetchReads hheld, hlen]
    exact hstate

/-- In plain memory the same PC and memory give the same fetch, whatever was read before. -/
theorem fetchInstr_fst_congr {s t : State} (hpc : t.pc = s.pc) (hmem : t.bus.mem = s.bus.mem)
    (hwin : t.bus.windows = s.bus.windows)
    (hplain : ∀ k < s.fetchInstr.1.size, s.bus.inWindow (s.pc + BitVec.ofNat 16 k) = false) :
    t.fetchInstr.1 = s.fetchInstr.1 := by
  obtain ⟨bytes, hdec, hheld, -⟩ := fetchInstr_of_plain hplain
  refine fetchInstr_fst_of_decode hdec (fun k hk => ?_) fun k hk => ?_
  · rw [Bus.inWindow_congr hwin, hpc]
    exact hplain k hk
  · rw [State.byteAt, hmem, hpc]
    exact hheld k hk

theorem State.endOfRun_iff (s : State) : s.endOfRun = true ↔
    s.fetchInstr.1 = .jmp (.abs s.pc) ∧ s.nmiPending = false ∧ (s.irqLine = false ∨ s.p.i = true) := by
  simp [State.endOfRun, and_assoc]

/-- Settles O58: no event is pending, and the jump fetched goes back to its own address. -/
theorem endOfRunSpins : Obligations.EndOfRunSpins := by
  intro s hend hplain
  obtain ⟨hjmp, hnmi, hmask⟩ := s.endOfRun_iff.mp hend
  have hsize : s.fetchInstr.1.size = 3 := by
    rw [hjmp]
    rfl
  rw [← hsize] at hplain
  obtain ⟨-, -, -, hfetch⟩ := fetchInstr_of_plain hplain
  obtain ⟨-, -, hexec, -⟩ := jumpsGoToAddress s.pc s.fetchInstr.2
  rw [hfetch, hsize] at hexec
  have hstep : step s = .next { s with
      cycles := s.cycles + 3, bus := { s.bus with log := Claims.fetchReads s 3 ++ s.bus.log } } := by
    rw [step_of_no_event (pendingEvent_eq_none hnmi hmask), hjmp, hfetch, hsize, hexec]
  refine ⟨_, hstep, (State.endOfRun_iff _).mpr ⟨?_, hnmi, hmask⟩, rfl⟩
  exact Eq.trans (fetchInstr_fst_congr (s := s) rfl rfl rfl hplain) hjmp

end Sys2Proof.Machine
end
